-- ==== Sys2Proof/Word.lean ====
section
/-! DEFINITION. The word and the byte of the toy CPU (00_scope.md R7, R9): a word is 32 unsigned bits, bit 31 the most
significant; the Output port takes bytes. -/

namespace Sys2Proof

/-- A machine word: every register slot, memory cell and instruction (00_scope.md R7, XLEN = ILEN = 32). -/
abbrev Word := BitVec 32

/-- What the Output port receives (10_state.md R35). -/
abbrev Byte := BitVec 8

end Sys2Proof
end

