-- ==== Sys2Proof/Syntax.lean ====
section
/-! DEFINITION. The instructions: one constructor of `Instr` for each row of spec/opcode_table.json, with exactly the fields
30_encoding.md R104 calls meaningful for it; and the decoded instruction record of 40_engine.md R147. -/

namespace Sys2Proof

/-- A register index field: 4 bits name one of the slots 0 to 15 (30_encoding.md R92, 10_state.md R22, R23). -/
abbrev Reg := Fin 16

/-- The operation selected by opcode and subcode: the twenty mnemonics of 40_engine.md R148. `bxx` is the placeholder `B??`. -/
inductive Mnemonic where
  | ldr | str | add | sub | mov | cmp | b | beq | bgt | blt | bne | bxx
  | and | orr | eor | mvn | lsl | lsr | out | halt
  deriving DecidableEq, Repr

/-- The fields of the decoded instruction record (30_encoding.md R91, R104). -/
inductive Field where
  | opcode | subcode | registerOperandFlag | immediate | memoryAddress | branchLabel | rm | rn | rd
  deriving DecidableEq, Repr

/-- The decoded instruction, "a pure projection of the word's bit fields plus mnemonic resolution" (40_engine.md R147). -/
structure Decoded where
  mnemonic : Mnemonic
  opcode : BitVec 4
  subcode : BitVec 4
  registerOperandFlag : Bool
  immediate : BitVec 19
  memoryAddress : BitVec 20
  branchLabel : BitVec 16
  rm : Reg
  rn : Reg
  rd : Reg
  deriving DecidableEq, Repr

/-- One constructor a row of spec/opcode_table.json. `…Reg` is a register form (flag 1), `…Imm` an immediate form (flag 0).
For LDR `rd` is the destination, for STR the register stored, for CMP the first comparand (30_encoding.md R97 to R103). -/
inductive Instr where
  | ldr (rd : Reg) (ea : BitVec 20)
  | str (rd : Reg) (ea : BitVec 20)
  | addReg (rd rn rm : Reg)
  | addImm (rd rn : Reg) (imm : BitVec 19)
  | subReg (rd rn rm : Reg)
  | subImm (rd rn : Reg) (imm : BitVec 19)
  | movReg (rd rm : Reg)
  | movImm (rd : Reg) (imm : BitVec 19)
  | cmpReg (rd rm : Reg)
  | cmpImm (rd : Reg) (imm : BitVec 19)
  | b (label : BitVec 16)
  | beq (label : BitVec 16)
  | bgt (label : BitVec 16)
  | blt (label : BitVec 16)
  | bne (label : BitVec 16)
  /-- `B??`, subcode 4 to 7: no instruction; EXECUTE raises IllegalInstruction (43_branch.md R218). -/
  | bxxLow (sub : BitVec 4)
  /-- `B??`, subcode 8 to 15: no instruction; EXECUTE raises IllegalInstruction (43_branch.md R218). -/
  | bxxHigh (sub : BitVec 4)
  | andReg (rd rn rm : Reg)
  | andImm (rd rn : Reg) (imm : BitVec 19)
  | orrReg (rd rn rm : Reg)
  | orrImm (rd rn : Reg) (imm : BitVec 19)
  | eorReg (rd rn rm : Reg)
  | eorImm (rd rn : Reg) (imm : BitVec 19)
  | mvnReg (rd rm : Reg)
  | mvnImm (rd : Reg) (imm : BitVec 19)
  | lslReg (rd rn rm : Reg)
  | lslImm (rd rn : Reg) (imm : BitVec 19)
  | lsrReg (rd rn rm : Reg)
  | lsrImm (rd rn : Reg) (imm : BitVec 19)
  | outReg (rm : Reg)
  | outImm (imm : BitVec 19)
  | halt
  deriving DecidableEq, Repr

/-- The mnemonic of an instruction (30_encoding.md R96). -/
def Instr.mnemonic : Instr → Mnemonic
  | .ldr _ _ => .ldr
  | .str _ _ => .str
  | .addReg _ _ _ => .add
  | .addImm _ _ _ => .add
  | .subReg _ _ _ => .sub
  | .subImm _ _ _ => .sub
  | .movReg _ _ => .mov
  | .movImm _ _ => .mov
  | .cmpReg _ _ => .cmp
  | .cmpImm _ _ => .cmp
  | .b _ => .b
  | .beq _ => .beq
  | .bgt _ => .bgt
  | .blt _ => .blt
  | .bne _ => .bne
  | .bxxLow _ => .bxx
  | .bxxHigh _ => .bxx
  | .andReg _ _ _ => .and
  | .andImm _ _ _ => .and
  | .orrReg _ _ _ => .orr
  | .orrImm _ _ _ => .orr
  | .eorReg _ _ _ => .eor
  | .eorImm _ _ _ => .eor
  | .mvnReg _ _ => .mvn
  | .mvnImm _ _ => .mvn
  | .lslReg _ _ _ => .lsl
  | .lslImm _ _ _ => .lsl
  | .lsrReg _ _ _ => .lsr
  | .lsrImm _ _ _ => .lsr
  | .outReg _ => .out
  | .outImm _ => .out
  | .halt => .halt

end Sys2Proof
end

