-- ==== Sys2Proof/WellFormed.lean ====
section
/-! DEFINITION. Which terms of `Instr` are instructions of the machine. The field widths stand in the types; what is left to
check is the subcode of the two `B??` rows, since subcodes 0 to 3 spell BEQ, BGT, BLT and BNE (30_encoding.md R96). -/

namespace Sys2Proof

/-- The subcode of `bxxLow` is 4 to 7 and that of `bxxHigh` 8 to 15, the ranges of the two `B??` rows of
spec/opcode_table.json; every other term is well formed. -/
def wellFormed : Instr → Bool
  | .bxxLow sub => decide (4 ≤ sub.toNat ∧ sub.toNat ≤ 7)
  | .bxxHigh sub => decide (8 ≤ sub.toNat)
  | .ldr _ _ | .str _ _ => true
  | .addReg _ _ _ | .addImm _ _ _ | .subReg _ _ _ | .subImm _ _ _ => true
  | .movReg _ _ | .movImm _ _ | .cmpReg _ _ | .cmpImm _ _ => true
  | .b _ | .beq _ | .bgt _ | .blt _ | .bne _ => true
  | .andReg _ _ _ | .andImm _ _ _ | .orrReg _ _ _ | .orrImm _ _ _ => true
  | .eorReg _ _ _ | .eorImm _ _ _ | .mvnReg _ _ | .mvnImm _ _ => true
  | .lslReg _ _ _ | .lslImm _ _ _ | .lsrReg _ _ _ | .lsrImm _ _ _ => true
  | .outReg _ | .outImm _ | .halt => true

end Sys2Proof
end

