-- ==== Sys2Proof/Decode.lean ====
section
/-! DEFINITION. The decoder (40_engine.md R147, R148), total on words; the reading of an instruction from a list of words,
which rejects by name; the table of meaningful fields (30_encoding.md R104); the encoder (R108) and the rows of
spec/opcode_table.json as masks and matches. -/

namespace Sys2Proof

/-- w[31:28] (30_encoding.md R91). -/
def opcodeOf (w : Word) : BitVec 4 := w.extractLsb' 28 4

/-- w[27:24] (R91). -/
def subcodeOf (w : Word) : BitVec 4 := w.extractLsb' 24 4

/-- w[27] (R91). -/
def flagOf (w : Word) : Bool := w.getLsbD 27

/-- w[26:8], unsigned (R95; the absence of a sign is 92_eei_decisions.md D3). -/
def immediateOf (w : Word) : BitVec 19 := w.extractLsb' 8 19

/-- w[27:8] (R93). -/
def memoryAddressOf (w : Word) : BitVec 20 := w.extractLsb' 8 20

/-- w[23:8] (R94; the position is 92_eei_decisions.md D2, 90_conflicts.md C2). -/
def branchLabelOf (w : Word) : BitVec 16 := w.extractLsb' 8 16

/-- w[11:8] (R92; the position is 92_eei_decisions.md D1, 90_conflicts.md C1). -/
def rmOf (w : Word) : Reg := (w.extractLsb' 8 4).toFin

/-- w[7:4] (R92). -/
def rnOf (w : Word) : Reg := (w.extractLsb' 4 4).toFin

/-- w[3:0] (R92). -/
def rdOf (w : Word) : Reg := (w.extractLsb' 0 4).toFin

/-- The conditional branch a subcode names; `bxx` for subcodes 4 to 15 (40_engine.md R148, D8). -/
def branchMnemonic (sub : BitVec 4) : Mnemonic :=
  match sub.toNat with
  | 0 => .beq
  | 1 => .bgt
  | 2 => .blt
  | 3 => .bne
  | _ => .bxx

/-- `mnemonic_of(op, sub)` (40_engine.md R148). The last arm is opcode 15. -/
def mnemonicOf (op sub : BitVec 4) : Mnemonic :=
  match op.toNat with
  | 0 => .ldr
  | 1 => .str
  | 2 => .add
  | 3 => .sub
  | 4 => .mov
  | 5 => .cmp
  | 6 => .b
  | 7 => branchMnemonic sub
  | 8 => .and
  | 9 => .orr
  | 10 => .eor
  | 11 => .mvn
  | 12 => .lsl
  | 13 => .lsr
  | 14 => .out
  | _ => .halt

/-- `decode(w)` as the record of R147: every field is extracted whatever the mnemonic. -/
def decodeFields (w : Word) : Decoded where
  mnemonic := mnemonicOf (opcodeOf w) (subcodeOf w)
  opcode := opcodeOf w
  subcode := subcodeOf w
  registerOperandFlag := flagOf w
  immediate := immediateOf w
  memoryAddress := memoryAddressOf w
  branchLabel := branchLabelOf w
  rm := rmOf w
  rn := rnOf w
  rd := rdOf w

/-- The instruction a decoded record stands for: its mnemonic with the meaningful fields (R104), and nothing else. -/
def Decoded.instr (d : Decoded) : Instr :=
  match d.mnemonic with
  | .ldr => .ldr d.rd d.memoryAddress
  | .str => .str d.rd d.memoryAddress
  | .add => if d.registerOperandFlag then .addReg d.rd d.rn d.rm else .addImm d.rd d.rn d.immediate
  | .sub => if d.registerOperandFlag then .subReg d.rd d.rn d.rm else .subImm d.rd d.rn d.immediate
  | .mov => if d.registerOperandFlag then .movReg d.rd d.rm else .movImm d.rd d.immediate
  | .cmp => if d.registerOperandFlag then .cmpReg d.rd d.rm else .cmpImm d.rd d.immediate
  | .b => .b d.branchLabel
  | .beq => .beq d.branchLabel
  | .bgt => .bgt d.branchLabel
  | .blt => .blt d.branchLabel
  | .bne => .bne d.branchLabel
  | .bxx => if d.subcode.toNat < 8 then .bxxLow d.subcode else .bxxHigh d.subcode
  | .and => if d.registerOperandFlag then .andReg d.rd d.rn d.rm else .andImm d.rd d.rn d.immediate
  | .orr => if d.registerOperandFlag then .orrReg d.rd d.rn d.rm else .orrImm d.rd d.rn d.immediate
  | .eor => if d.registerOperandFlag then .eorReg d.rd d.rn d.rm else .eorImm d.rd d.rn d.immediate
  | .mvn => if d.registerOperandFlag then .mvnReg d.rd d.rm else .mvnImm d.rd d.immediate
  | .lsl => if d.registerOperandFlag then .lslReg d.rd d.rn d.rm else .lslImm d.rd d.rn d.immediate
  | .lsr => if d.registerOperandFlag then .lsrReg d.rd d.rn d.rm else .lsrImm d.rd d.rn d.immediate
  | .out => if d.registerOperandFlag then .outReg d.rm else .outImm d.immediate
  | .halt => .halt

/-- The decoder: "Always succeeds" (40_engine.md R147, 30_encoding.md R106). -/
def decode (w : Word) : Instr := (decodeFields w).instr

/-- The "which fields are meaningful for mnemonic X" table (30_encoding.md R104); `flag` is the word's bit 27. -/
def meaningfulFields (m : Mnemonic) (flag : Bool) : List Field :=
  match m with
  | .ldr | .str => [.opcode, .rd, .memoryAddress]
  | .add | .sub | .and | .orr | .eor | .lsl | .lsr =>
    [.opcode, .rd, .rn, .registerOperandFlag, if flag then .rm else .immediate]
  | .mov | .mvn | .cmp => [.opcode, .rd, .registerOperandFlag, if flag then .rm else .immediate]
  | .out => [.opcode, .registerOperandFlag, if flag then .rm else .immediate]
  | .b => [.opcode, .branchLabel]
  | .beq | .bgt | .blt | .bne => [.opcode, .subcode, .branchLabel]
  | .bxx => [.opcode, .subcode]
  | .halt => [.opcode]

/-- The bits of the word a field takes (30_encoding.md R91 to R95). -/
def Field.mask : Field → Word
  | .opcode => 0xF0000000#32
  | .subcode => 0x0F000000#32
  | .registerOperandFlag => 0x08000000#32
  | .immediate => 0x07FFFF00#32
  | .memoryAddress => 0x0FFFFF00#32
  | .branchLabel => 0x00FFFF00#32
  | .rm => 0x00000F00#32
  | .rn => 0x000000F0#32
  | .rd => 0x0000000F#32

/-- The bits of `w` that lie in a meaningful field of its own mnemonic; every other bit is ignored (R105). -/
def meaningfulMask (w : Word) : Word :=
  (meaningfulFields (decodeFields w).mnemonic (decodeFields w).registerOperandFlag).foldr
    (fun f m => f.mask ||| m) 0#32

/-- Why a list of words holds no instruction at its head. -/
inductive DecodeError where
  /-- The list is empty: there is no word to decode. -/
  | noWord
  deriving DecidableEq, Repr

/-- The instruction at the head of a list of words, and the words after it: an instruction is one word (30_encoding.md R90),
and any word is one (R106, R107). Only an empty list is rejected. -/
def decodeWords : List Word → Except DecodeError (Instr × List Word)
  | [] => .error .noWord
  | w :: rest => .ok (decode w, rest)

/-- `w = opcode * 2^28 + (op2 contribution) + Rn * 2^4 + Rd` (30_encoding.md R108). -/
def packWord (opcode op2 rn rd : Nat) : Word := BitVec.ofNat 32 (opcode * 2 ^ 28 + op2 + rn * 2 ^ 4 + rd)

/-- Format MEM (R97). -/
def encodeMem (op : Nat) (rd : Reg) (ea : BitVec 20) : Word := packWord op (ea.toNat * 2 ^ 8) 0 rd.val

/-- Formats ALU3, ALU2 and OUT, register form (R98, R99, R100); a field the format lacks is 0. -/
def encodeRegForm (op : Nat) (rd rn rm : Reg) : Word := packWord op (2 ^ 27 + rm.val * 2 ^ 8) rn.val rd.val

/-- Formats ALU3, ALU2 and OUT, immediate form (R98, R99, R100); a field the format lacks is 0. -/
def encodeImmForm (op : Nat) (rd rn : Reg) (imm : BitVec 19) : Word := packWord op (imm.toNat * 2 ^ 8) rn.val rd.val

/-- Formats BR and BCC (R101, R102). -/
def encodeBranch (op sub : Nat) (label : BitVec 16) : Word := packWord op (sub * 2 ^ 24 + label.toNat * 2 ^ 8) 0 0

/-- `encode(fields)` (30_encoding.md R108): the word of an instruction, ignored bits 0. -/
def encode : Instr → Word
  | .ldr rd ea => encodeMem 0 rd ea
  | .str rd ea => encodeMem 1 rd ea
  | .addReg rd rn rm => encodeRegForm 2 rd rn rm
  | .addImm rd rn imm => encodeImmForm 2 rd rn imm
  | .subReg rd rn rm => encodeRegForm 3 rd rn rm
  | .subImm rd rn imm => encodeImmForm 3 rd rn imm
  | .movReg rd rm => encodeRegForm 4 rd 0 rm
  | .movImm rd imm => encodeImmForm 4 rd 0 imm
  | .cmpReg rd rm => encodeRegForm 5 rd 0 rm
  | .cmpImm rd imm => encodeImmForm 5 rd 0 imm
  | .b label => encodeBranch 6 0 label
  | .beq label => encodeBranch 7 0 label
  | .bgt label => encodeBranch 7 1 label
  | .blt label => encodeBranch 7 2 label
  | .bne label => encodeBranch 7 3 label
  | .bxxLow sub => encodeBranch 7 sub.toNat 0#16
  | .bxxHigh sub => encodeBranch 7 sub.toNat 0#16
  | .andReg rd rn rm => encodeRegForm 8 rd rn rm
  | .andImm rd rn imm => encodeImmForm 8 rd rn imm
  | .orrReg rd rn rm => encodeRegForm 9 rd rn rm
  | .orrImm rd rn imm => encodeImmForm 9 rd rn imm
  | .eorReg rd rn rm => encodeRegForm 10 rd rn rm
  | .eorImm rd rn imm => encodeImmForm 10 rd rn imm
  | .mvnReg rd rm => encodeRegForm 11 rd 0 rm
  | .mvnImm rd imm => encodeImmForm 11 rd 0 imm
  | .lslReg rd rn rm => encodeRegForm 12 rd rn rm
  | .lslImm rd rn imm => encodeImmForm 12 rd rn imm
  | .lsrReg rd rn rm => encodeRegForm 13 rd rn rm
  | .lsrImm rd rn imm => encodeImmForm 13 rd rn imm
  | .outReg rm => encodeRegForm 14 0 0 rm
  | .outImm imm => encodeImmForm 14 0 0 imm
  | .halt => packWord 15 0 0 0

/-- The row of spec/opcode_table.json an instruction belongs to, as its (mask, match) pair: a word belongs to the row when its
masked bits equal the match. -/
def tableRow : Instr → Word × Word
  | .ldr _ _ => (0xF0000000#32, 0x00000000#32)
  | .str _ _ => (0xF0000000#32, 0x10000000#32)
  | .addReg _ _ _ => (0xF8000000#32, 0x28000000#32)
  | .addImm _ _ _ => (0xF8000000#32, 0x20000000#32)
  | .subReg _ _ _ => (0xF8000000#32, 0x38000000#32)
  | .subImm _ _ _ => (0xF8000000#32, 0x30000000#32)
  | .movReg _ _ => (0xF8000000#32, 0x48000000#32)
  | .movImm _ _ => (0xF8000000#32, 0x40000000#32)
  | .cmpReg _ _ => (0xF8000000#32, 0x58000000#32)
  | .cmpImm _ _ => (0xF8000000#32, 0x50000000#32)
  | .b _ => (0xF0000000#32, 0x60000000#32)
  | .beq _ => (0xFF000000#32, 0x70000000#32)
  | .bgt _ => (0xFF000000#32, 0x71000000#32)
  | .blt _ => (0xFF000000#32, 0x72000000#32)
  | .bne _ => (0xFF000000#32, 0x73000000#32)
  | .bxxLow _ => (0xFC000000#32, 0x74000000#32)
  | .bxxHigh _ => (0xF8000000#32, 0x78000000#32)
  | .andReg _ _ _ => (0xF8000000#32, 0x88000000#32)
  | .andImm _ _ _ => (0xF8000000#32, 0x80000000#32)
  | .orrReg _ _ _ => (0xF8000000#32, 0x98000000#32)
  | .orrImm _ _ _ => (0xF8000000#32, 0x90000000#32)
  | .eorReg _ _ _ => (0xF8000000#32, 0xA8000000#32)
  | .eorImm _ _ _ => (0xF8000000#32, 0xA0000000#32)
  | .mvnReg _ _ => (0xF8000000#32, 0xB8000000#32)
  | .mvnImm _ _ => (0xF8000000#32, 0xB0000000#32)
  | .lslReg _ _ _ => (0xF8000000#32, 0xC8000000#32)
  | .lslImm _ _ _ => (0xF8000000#32, 0xC0000000#32)
  | .lsrReg _ _ _ => (0xF8000000#32, 0xD8000000#32)
  | .lsrImm _ _ _ => (0xF8000000#32, 0xD0000000#32)
  | .outReg _ => (0xF8000000#32, 0xE8000000#32)
  | .outImm _ => (0xF8000000#32, 0xE0000000#32)
  | .halt => (0xF0000000#32, 0xF0000000#32)

/-- An instruction whose bits are `w`, numbered as spec/opcode_table.json numbers them, as the words the machine stores: one
word, bit 0 its least significant; a value of more than one word is no instruction of this machine. -/
def tableWord (nbits w : Nat) : Option Word :=
  if nbits ≤ 32 then some (BitVec.ofNat 32 (w % 2 ^ nbits)) else none

/-- The instruction the decoder reads from the `nbits` bits `w` of an opcode-table row. -/
def decodeTableWord (nbits w : Nat) : Option Instr :=
  match tableWord nbits w with
  | none => none
  | some v =>
    match decodeWords [v] with
    | .ok (i, _) => some i
    | .error _ => none

end Sys2Proof
end

