-- ==== Sys2Proof/Config.lean ====
section
/-! DEFINITION. The implementation parameters of 00_scope.md R7. The widths are fixed by the source and stand in the types.
The parameters the spec leaves OPEN are constants with no body: nothing can be proved of their values, so a statement holds
whatever they are. -/

namespace Sys2Proof

/-- The highest Memory address, MEM_SIZE - 1, of the machine as it is created. MEM_SIZE is OPEN with
1 <= MEM_SIZE <= 2^32 (R7, 92_eei_decisions.md D6), and the highest address of such a Memory is any word.
DESIGN CHOICE, safe (log 1): the parameter is kept as its highest address. -/
opaque Config.lastAddress : Word

/-- MEM_SIZE, the number of words of Memory (R7). -/
def Config.memSize : Nat := Config.lastAddress.toNat + 1

/-- A positive rational: the fraction (`numeratorPred` + 1) / (`denominatorPred` + 1). The three timing parameters are "positive;
timing only" (92_eei_decisions.md, Parameters left open). DESIGN CHOICE, safe (log 8): that they are rational. -/
structure PositiveRat where
  numeratorPred : Nat
  denominatorPred : Nat
  deriving DecidableEq, Repr, Inhabited

/-- The number. -/
def PositiveRat.value (q : PositiveRat) : Rat := (q.numeratorPred + 1) / (q.denominatorPred + 1)

/-- CLOCK_INTERVAL, in time units (R7, R300): OPEN, positive, timing only. -/
opaque Config.clockInterval : PositiveRat

/-- FETCH_BOOST (R7, R300): OPEN, positive, timing only. -/
opaque Config.fetchBoost : PositiveRat

/-- DECODE_BOOST (R7, R300): OPEN, positive, timing only. -/
opaque Config.decodeBoost : PositiveRat

/-- PAUSE_POLL, the poll interval of a paused run (R7, R302): 100 time units. -/
def Config.pausePoll : Rat := 100

/-- ASM_MAX_REG, the largest register index the assembler accepts (R7): the source leaves it open below 20, the spec takes 10
(92_eei_decisions.md D5). The hardware does not depend on it. -/
def Config.asmMaxReg : Nat := 10

/-- Which wait a `wait(T)` micro-step is (70_reset_and_hazards.md R300). -/
inductive WaitKind where
  | fetch
  | decode
  | execute
  | poll
  deriving DecidableEq, Repr

/-- The length of a wait (R300, with the quotient of 90_conflicts.md C3 for both boosts; R302 for the poll). No rule of
state depends on it (R143), and nothing in the model reads it (log 8). -/
def WaitKind.length : WaitKind → Rat
  | .fetch => Config.clockInterval.value / Config.fetchBoost.value
  | .decode => Config.clockInterval.value / Config.decodeBoost.value
  | .execute => Config.clockInterval.value
  | .poll => Config.pausePoll

end Sys2Proof
end

