-- ==== Sys2Proof/Machine/Micro.lean ====
section
/-! DEFINITION. The vocabulary of the engine, as plain data: the phases, the Bus control values, the outcomes of a run with the
fault record, the host's controls, and the micro-steps of which the phases are made (40_engine.md R140, R151). What a micro-step
does is Machine/Run.lean; which micro-steps a phase has is Machine/Phases.lean and the instruction families. -/

namespace Sys2Proof.Machine

/-- PHASE (10_state.md R36). -/
inductive Phase where
  | fetch | decode | execute
  deriving DecidableEq, Repr

/-- BUS.ctrl (10_state.md R34); the spec gives the four values no encoding as bits. -/
inductive BusCtrl where
  | read | write | ready | idle
  deriving DecidableEq, Repr

/-- The two synchronous faults (60_exceptions.md R240 to R242). -/
inductive FaultKind where
  /-- A Memory access at an address at or above MEM_SIZE (R240). -/
  | outOfRange
  /-- EXECUTE of `B??` (R241). -/
  | illegalInstruction
  deriving DecidableEq, Repr

/-- The fault record of `Faulted(f)` (60_exceptions.md R243). -/
structure FaultRecord where
  kind : FaultKind
  /-- The address out of range, or the illegal word. -/
  value : Word
  /-- The phase that faulted. -/
  phase : Phase
  deriving DecidableEq, Repr

/-- STATUS (10_state.md R36): whether a run is active and, if not, how the last one ended. -/
inductive Status where
  | idle
  | running
  | halted
  | cancelled
  | faulted (f : FaultRecord)
  deriving DecidableEq, Repr

/-- The host's controls (60_exceptions.md R250, 70_reset_and_hazards.md R289). -/
inductive HostEvent where
  | reset
  | load (words : List Word)
  | run
  | pause
  | resume
  | step
  | cancel
  deriving DecidableEq, Repr

/-- The ten operations of the ALU (42_alu.md R180). -/
inductive AluOp where
  | add | sub | mov | cmp | and | orr | eor | mvn | lsl | lsr
  deriving DecidableEq, Repr

/-- Where operand A comes from (42_alu.md R182): a register, or nothing ("unused" for MOV and MVN). -/
inductive OperandA where
  | reg (r : Reg)
  | unused
  deriving DecidableEq, Repr

/-- Where operand B comes from, as the register-operand flag selects (42_alu.md R182). -/
inductive OperandB where
  | reg (r : Reg)
  | imm (i : BitVec 19)
  deriving DecidableEq, Repr

/-- The predicate of a branch (43_branch.md R212). -/
inductive Condition where
  | always | eq | gt | lt | ne
  deriving DecidableEq, Repr

/-- The address of a Bus transaction: the PC for FETCH (40_engine.md R144), the instruction's address field for LDR and STR
(41_load_store.md R170). -/
inductive AddrSource where
  | pc
  | field (ea : BitVec 20)
  deriving DecidableEq, Repr

/-- One micro-step of a phase. The comments give the step's label in the spec's lists. -/
inductive Micro where
  /-- `wait(T)`: a cancellation check, then a suspension that changes no state (40_engine.md R143). -/
  | wait (k : WaitKind)
  /-- f0: the FetchAt notification, no state change (60_exceptions.md R262). -/
  | notifyFetch
  /-- b1, w1: BUS.addr <- a. -/
  | busAddr (a : AddrSource)
  /-- b2, b4, b6, w3, w5, w7: BUS.ctrl <- c. -/
  | busCtrl (c : BusCtrl)
  /-- b4: v <- MemRead(a, 32), which may raise OutOfRange. -/
  | memRead (a : AddrSource)
  /-- b4, w2: BUS.data <- v. -/
  | busData
  /-- w5: MemWrite(a, 32, v), which may raise OutOfRange. -/
  | memWrite (a : AddrSource)
  /-- f2: CIR <- v and PC <- PC + 1, together. -/
  | latchInstruction
  /-- d2: IR <- some CIR. -/
  | storeIr
  /-- s2: the argument x[Rd] of BusWrite is evaluated. -/
  | holdReg (r : Reg)
  /-- a2: A and B are resolved and stored to ALU_A and ALU_B. -/
  | operands (a : OperandA) (b : OperandB)
  /-- a4: r <- apply(op, A, B), ALU_RES <- r. -/
  | alu (op : AluOp)
  /-- l3, a6: x[Rd] <- v. -/
  | writeReg (rd : Reg)
  /-- a6 of CMP: FLAGS <- r. -/
  | writeFlags
  /-- j2: f <- FLAGS. -/
  | readFlags
  /-- j3: if the predicate holds of f then PC <- target. -/
  | branch (c : Condition) (target : BitVec 16)
  /-- o2: v <- operandB. -/
  | holdOperand (b : OperandB)
  /-- o3, o7: OUT_BUSY. -/
  | outBusy (busy : Bool)
  /-- o5: OutByte(v mod 256). -/
  | outByte
  /-- h2: the run ends Halted. -/
  | halt
  /-- q1: raise IllegalInstruction(CIR). -/
  | raiseIllegal
  deriving DecidableEq, Repr

/-- The values a phase in progress holds (10_state.md R36: "the word read, the operands"): the two ALU operands, and the word
read, stored, computed or tested. -/
structure Held where
  opA : Word := 0#32
  opB : Word := 0#32
  val : Word := 0#32
  deriving DecidableEq, Repr

/-- The in-phase position (10_state.md R36): the micro-steps still to do and the values held. -/
structure Progress where
  todo : List Micro
  held : Held
  deriving DecidableEq, Repr

end Sys2Proof.Machine
end

