-- ==== Sys2Proof/Machine/State.lean ====
section
/-! DEFINITION. The state of the machine: every piece of state 10_state.md gives it, as plain data, with its reset value
(10_state.md R42, 70_reset_and_hazards.md R280), and the reasons a step can stop. -/

namespace Sys2Proof.Machine

/-- One cell of Memory: its word address and its word. The unit of addressing is the word and there is no byte view
(20_memory.md R60, R61; log 2). -/
abbrev Cell := Nat × Word

/-- Memory (10_state.md R33): the highest address, fixed at creation, and the cells that do not hold 0, addresses strictly
rising. An unlisted cell holds 0, what reset leaves everywhere (R42). -/
structure Memory where
  last : Word
  cells : List Cell
  deriving DecidableEq, Repr

/-- The state (10_state.md). `agenda` is the model's own field, the host's input (log 5); every other field is the spec's. -/
structure State where
  /-- x[0] to x[15]: r0 to r10 (R21) and the unnamed slots 11 to 15 (R22). -/
  regs : Vector Word 16
  /-- x[16], the program counter, a word address (R25). -/
  pc : Word
  /-- x[17], the current instruction register (R28). -/
  cir : Word
  /-- x[18], the decoded instruction, kept as the word it is decoded from (R29, 90_conflicts.md C8). -/
  ir : Option Word
  /-- x[19] (R30). -/
  aluA : Word
  /-- x[20] (R30). -/
  aluB : Word
  /-- x[21] (R30). -/
  aluRes : Word
  /-- x[22], the comparison flags (R31). -/
  flags : Word
  /-- Memory (R33). -/
  mem : Memory
  /-- BUS.addr (R34). -/
  busAddr : Word
  /-- BUS.data (R34). -/
  busData : Word
  /-- BUS.ctrl (R34). -/
  busCtrl : BusCtrl
  /-- OUT_LOG, oldest byte first (R35). -/
  outLog : List Byte
  /-- OUT_BUSY (R35). -/
  outBusy : Bool
  /-- PHASE (R36). -/
  phase : Phase
  /-- STATUS (R36). -/
  status : Status
  /-- PAUSED (R36). -/
  paused : Bool
  /-- Step grants not yet consumed (60_exceptions.md R253, log 7). -/
  grants : Nat
  /-- CANCEL, the token of the current run; none until a run starts (R36, R42). -/
  cancel : Option Bool
  /-- The in-phase position; none at a phase boundary (R36, log 6). -/
  inPhase : Option Progress
  /-- At a phase boundary: is the engine in the poll wait of a paused run (40_engine.md R142, log 6)? -/
  polling : Bool
  /-- The model's own: what the host does at each check point to come, next first; after the last, nothing (log 5). -/
  agenda : List (List HostEvent)
  deriving DecidableEq, Repr

/-- Reasons for a step to stop with a fault of the MODEL. The machine's own faults are no such stop: they end the run and leave
a state (60_exceptions.md R244, R245), so they are next states with `Status.faulted` (log 3). -/
inductive Fault where
  /-- Raised by `step` alone, in a state whose in-phase position holds more micro-steps than any phase of the machine has; no
  run reaches one. Safe: the model stops. -/
  | overlongPhase
  deriving DecidableEq, Repr

/-- Reasons for a step to be refused. -/
inductive Refusal where
  /-- The instruction has no meaning in the model yet. Raised by no arm of `exec`: every instruction has its meaning. Safe. -/
  | notModelled (mnemonic : String)
  deriving DecidableEq, Repr

/-- Memory as created and as reset leaves it: every cell 0 (10_state.md R42, D16). -/
def Memory.cleared (last : Word) : Memory := { last := last, cells := [] }

/-- The state reset leaves (70_reset_and_hazards.md R280, 10_state.md R42), for a Memory of highest address `last` and a host
whose further actions are `agenda`. -/
def State.cleared (last : Word) (agenda : List (List HostEvent)) : State where
  regs := Vector.replicate 16 0#32
  pc := 0#32
  cir := 0#32
  ir := none
  aluA := 0#32
  aluB := 0#32
  aluRes := 0#32
  flags := 0#32
  mem := Memory.cleared last
  busAddr := 0#32
  busData := 0#32
  busCtrl := .idle
  outLog := []
  outBusy := false
  phase := .fetch
  status := .idle
  paused := false
  grants := 0
  cancel := none
  inPhase := none
  polling := false
  agenda := agenda

/-- The machine right after creation or reset (70_reset_and_hazards.md R280, R281): no run is active. -/
def State.reset : State := State.cleared Config.lastAddress []

end Sys2Proof.Machine
end

