-- ==== Sys2Proof/Machine/Ops.lean ====
section
/-! DEFINITION. The named operations over registers, Memory, Bus, Output and run status, among them the one way a fault is
taken. Register updates of the whole model go through these. -/

namespace Sys2Proof.Machine

/-- `x[i]` for a slot an instruction can name (00_scope.md R10, 10_state.md R22). -/
def State.reg (s : State) (r : Reg) : Word := s.regs[r]

/-- `x[i] <- v` for a slot an instruction can name. No slot is hard-wired (10_state.md R21). -/
def State.setReg (s : State) (r : Reg) (v : Word) : State := { s with regs := s.regs.set r v }

/-- PC <- t. -/
def State.setPc (s : State) (t : Word) : State := { s with pc := t }

/-- The two writes of f2, which happen together (40_engine.md R144); the increment wraps (10_state.md R27, D23). -/
def State.latchInstruction (s : State) (w : Word) : State := { s with cir := w, pc := s.pc + 1#32 }

/-- IR <- some w (10_state.md R29). -/
def State.setIr (s : State) (w : Word) : State := { s with ir := some w }

/-- ALU_A <- a, ALU_B <- b (42_alu.md R181, a2). -/
def State.setAluOperands (s : State) (a b : Word) : State := { s with aluA := a, aluB := b }

/-- ALU_RES <- r (42_alu.md R181, a4; D10). -/
def State.setAluRes (s : State) (r : Word) : State := { s with aluRes := r }

/-- FLAGS <- f (42_alu.md R181, a6). -/
def State.setFlags (s : State) (f : Word) : State := { s with flags := f }

/-- BUS.addr <- a. -/
def State.setBusAddr (s : State) (a : Word) : State := { s with busAddr := a }

/-- BUS.data <- v. -/
def State.setBusData (s : State) (v : Word) : State := { s with busData := v }

/-- BUS.ctrl <- c. -/
def State.setBusCtrl (s : State) (c : BusCtrl) : State := { s with busCtrl := c }

/-- `Output.write(byte)`: append one byte to OUT_LOG (44_out_halt.md R232). -/
def State.outWrite (s : State) (b : Byte) : State := { s with outLog := s.outLog ++ [b] }

/-- `Output.setBusy` (44_out_halt.md R232). -/
def State.setOutBusy (s : State) (b : Bool) : State := { s with outBusy := b }

/-- Indexed access for the host and observers (10_state.md R41): slot 18 is 0 while IR is none (R29). -/
def State.slot (s : State) (i : Fin 23) : Word :=
  if h : i.val < 16 then s.reg ⟨i.val, h⟩
  else match i.val with
    | 16 => s.pc
    | 17 => s.cir
    | 18 => s.ir.getD 0#32
    | 19 => s.aluA
    | 20 => s.aluB
    | 21 => s.aluRes
    | _ => s.flags

/-- MEM_SIZE of this Memory (10_state.md R33). -/
def Memory.size (m : Memory) : Nat := m.last.toNat + 1

/-- The word at address `a` among rising cells; an unlisted cell holds 0. -/
def readCells : List Cell → Nat → Word
  | [], _ => 0#32
  | (k, v) :: rest, a => if a < k then 0#32 else if a = k then v else readCells rest a

/-- Store `v` at `a` among rising cells, keeping them rising and free of zeros. -/
def writeCells : List Cell → Nat → Word → List Cell
  | [], a, v => if v = 0#32 then [] else [(a, v)]
  | (k, u) :: rest, a, v =>
    if a < k then if v = 0#32 then (k, u) :: rest else (a, v) :: (k, u) :: rest
    else if a = k then if v = 0#32 then rest else (a, v) :: rest
    else (k, u) :: writeCells rest a v

/-- `Mem[a]`, without the bounds check. -/
def Memory.get (m : Memory) (a : Nat) : Word := readCells m.cells a

/-- `Mem[a] <- v`, without the bounds check. -/
def Memory.put (m : Memory) (a : Nat) (v : Word) : Memory := { m with cells := writeCells m.cells a v }

/-- `MemRead(a, 32)`: the word at `a`, or none where the access is out of range; the check is a >= MEM_SIZE and there is no
other (20_memory.md R63, R64). -/
def Memory.read (m : Memory) (a : Word) : Option Word :=
  if a.toNat < m.size then some (m.get a.toNat) else none

/-- `MemWrite(a, 32, v)`: Memory with the word stored, or none where the access is out of range (R63, R64). -/
def Memory.write (m : Memory) (a v : Word) : Option Memory :=
  if a.toNat < m.size then some (m.put a.toNat v) else none

/-- Load of the words from address `a` up (70_reset_and_hazards.md R282). -/
def Memory.loadFrom (m : Memory) (a : Nat) : List Word → Memory
  | [] => m
  | w :: ws => (m.put a w).loadFrom (a + 1) ws

/-- Cells with addresses rising from `lo` on, none of them zero. -/
def risingFrom (lo : Nat) : List Cell → Bool
  | [] => true
  | (k, v) :: rest => decide (lo ≤ k) && decide (v ≠ 0#32) && risingFrom (k + 1) rest

/-- The canonical form of Memory: addresses strictly rising, no cell listed that holds what an unlisted one reads as, and no
address at or above MEM_SIZE. -/
def Memory.wf (m : Memory) : Bool :=
  risingFrom 0 m.cells && m.cells.all (fun c => decide (c.1 < m.size))

/-- A fault is taken (60_exceptions.md R243, R245): the run ends with STATUS <- Faulted(f), and nothing else changes. There is
no handler, no vector, no saved register and no return (R245, R247): the record is the host's. -/
def State.raise (s : State) (kind : FaultKind) (value : Word) (phase : Phase) : State :=
  { s with status := .faulted ⟨kind, value, phase⟩ }

/-- HALT ends the run: STATUS <- Halted, PHASE <- FETCH (44_out_halt.md R233). -/
def State.halt (s : State) : State := { s with status := .halted, phase := .fetch }

/-- The address a Bus transaction is at. -/
def AddrSource.value (a : AddrSource) (s : State) : Word :=
  match a with
  | .pc => s.pc
  | .field ea => ea.setWidth 32

end Sys2Proof.Machine
end

