-- ==== Sys2Proof/Machine/Operands.lean ====
section
/-! DEFINITION. Operand resolution (42_alu.md R182). -/

namespace Sys2Proof.Machine

/-- Operand A: a register, or 0 where the instruction has none (R182; the 0 is 92_eei_decisions.md D11). -/
def State.operandA (s : State) : OperandA → Word
  | .reg r => s.reg r
  | .unused => 0#32

/-- Operand B: register Rm, or the immediate zero-extended (R182, 30_encoding.md R95). -/
def State.operandB (s : State) : OperandB → Word
  | .reg r => s.reg r
  | .imm i => i.setWidth 32

/-- The byte OUT delivers: v mod 256, bits 7 to 0 (44_out_halt.md R231, D9). -/
def outByteOf (v : Word) : Byte := v.setWidth 8

/-- The target of a branch: the label field zero-extended to a word (43_branch.md R211). -/
def branchTarget (label : BitVec 16) : Word := label.setWidth 32

end Sys2Proof.Machine
end

