-- ==== Sys2Proof/Machine/Flags.lean ====
section
/-! DEFINITION. The comparison flags (10_state.md R31): CMP computes them, the branches test them. -/

namespace Sys2Proof.Machine

/-- The flag word of an unsigned comparison of `a` with `b` (42_alu.md R192): 16 for valid, 8 for equal, 4 for greater, 2 for
less, 1 for not equal. -/
def compareFlags (a b : Word) : Word :=
  16#32 + (if a = b then 8#32 else 0#32) + (if b.toNat < a.toNat then 4#32 else 0#32)
    + (if a.toNat < b.toNat then 2#32 else 0#32) + (if a ≠ b then 1#32 else 0#32)

/-- Bit 4, V, "always 1 after a CMP" (R31). -/
def flagValid (f : Word) : Bool := f.getLsbD 4

/-- Bit 3 (R31). -/
def flagEq (f : Word) : Bool := f.getLsbD 3

/-- Bit 2 (R31). -/
def flagGt (f : Word) : Bool := f.getLsbD 2

/-- Bit 1 (R31). -/
def flagLt (f : Word) : Bool := f.getLsbD 1

/-- Bit 0 (R31). -/
def flagNe (f : Word) : Bool := f.getLsbD 0

/-- `predicate(m, f)` (43_branch.md R212): one bit each; the valid bit is tested by none. -/
def Condition.holds (c : Condition) (f : Word) : Bool :=
  match c with
  | .always => true
  | .eq => flagEq f
  | .gt => flagGt f
  | .lt => flagLt f
  | .ne => flagNe f

/-- The values FLAGS can hold (10_state.md R32): 0 before any CMP, else 24, 21 or 19. -/
def flagsLegal (f : Word) : Bool := f = 0#32 || f = 24#32 || f = 21#32 || f = 19#32

end Sys2Proof.Machine
end

