-- ==== Sys2Proof/Machine/Alu.lean ====
section
/-! DEFINITION. The ALU as a pure function of two words (42_alu.md R180): `apply(mnemonic, a, b)`. -/

namespace Sys2Proof.Machine

/-- LSL (42_alu.md R188, R194): (a * 2^b) mod 2^32 for every word b; 0 when b >= 32 (D7). -/
def shiftLeft (a b : Word) : Word := if b.toNat < 32 then a <<< b.toNat else 0#32

/-- LSR (42_alu.md R189, R194): floor(a / 2^b) for every word b; 0 when b >= 32 (D7). -/
def shiftRight (a b : Word) : Word := if b.toNat < 32 then a >>> b.toNat else 0#32

/-- `apply` (42_alu.md R180, R183 to R192). ADD and SUB wrap modulo 2^32; MOV and MVN ignore `a`; CMP gives the flag word. -/
def AluOp.apply (op : AluOp) (a b : Word) : Word :=
  match op with
  | .add => a + b
  | .sub => a - b
  | .and => a &&& b
  | .orr => a ||| b
  | .eor => a ^^^ b
  | .lsl => shiftLeft a b
  | .lsr => shiftRight a b
  | .mov => b
  | .mvn => ~~~b
  | .cmp => compareFlags a b

end Sys2Proof.Machine
end

