-- ==== Sys2Proof/Machine/Run.lean ====
section
/-! DEFINITION. What one micro-step does, and a phase run whole (40_engine.md R151, R152). -/

namespace Sys2Proof.Machine

/-- What a micro-step comes to: the phase goes on, or the run has ended (HALT or a fault). -/
inductive MicroResult where
  | goes (s : State) (h : Held)
  | ends (s : State)
  deriving DecidableEq, Repr

/-- One micro-step of phase `ph`, with the values the phase holds. Waits and the notification change no state
(40_engine.md R143, 60_exceptions.md R262). -/
def Micro.run (ph : Phase) (s : State) (h : Held) : Micro → MicroResult
  | .wait _ => .goes s h
  | .notifyFetch => .goes s h
  | .busAddr a => .goes (s.setBusAddr (a.value s)) h
  | .busCtrl c => .goes (s.setBusCtrl c) h
  | .memRead a =>
    match s.mem.read (a.value s) with
    | some v => .goes s { h with val := v }
    | none => .ends (s.raise .outOfRange (a.value s) ph)
  | .busData => .goes (s.setBusData h.val) h
  | .memWrite a =>
    match s.mem.write (a.value s) h.val with
    | some m => .goes { s with mem := m } h
    | none => .ends (s.raise .outOfRange (a.value s) ph)
  | .latchInstruction => .goes (s.latchInstruction h.val) h
  | .storeIr => .goes (s.setIr s.cir) h
  | .holdReg r => .goes s { h with val := s.reg r }
  | .operands a b =>
    .goes (s.setAluOperands (s.operandA a) (s.operandB b)) { h with opA := s.operandA a, opB := s.operandB b }
  | .alu op => .goes (s.setAluRes (op.apply h.opA h.opB)) { h with val := op.apply h.opA h.opB }
  | .writeReg rd => .goes (s.setReg rd h.val) h
  | .writeFlags => .goes (s.setFlags h.val) h
  | .readFlags => .goes s { h with val := s.flags }
  | .branch c target => .goes (if c.holds h.val then s.setPc (branchTarget target) else s) h
  | .holdOperand b => .goes s { h with val := s.operandB b }
  | .outBusy busy => .goes (s.setOutBusy busy) h
  | .outByte => .goes (s.outWrite (outByteOf h.val)) h
  | .halt => .ends s.halt
  | .raiseIllegal => .ends (s.raise .illegalInstruction s.cir ph)

/-- How a phase ends: with all its micro-steps done, or with the end of the run. -/
inductive PhaseEnd where
  | complete (s : State)
  | ended (s : State)
  deriving DecidableEq, Repr

/-- The state a phase leaves, however it ends. -/
def PhaseEnd.state : PhaseEnd → State
  | .complete s => s
  | .ended s => s

/-- Micro-steps in order, with nothing interleaved (40_engine.md R152, R153). -/
def runMicros (ph : Phase) : List Micro → State → Held → PhaseEnd
  | [], s, _ => .complete s
  | op :: rest, s, h =>
    match op.run ph s h with
    | .goes s' h' => runMicros ph rest s' h'
    | .ends s' => .ended s'

/-- A whole EXECUTE phase as the meaning of an instruction: the state its micro-steps leave. A fault of the machine leaves a
state too (60_exceptions.md R244; log 3). -/
def runExecute (ops : List Micro) (s : State) : Host.Outcome State Fault Refusal :=
  .next (runMicros .execute ops s {}).state

end Sys2Proof.Machine
end

