-- ==== Sys2Proof/Machine/Phases.lean ====
section
/-! DEFINITION. The Bus transactions and the phases FETCH and DECODE as micro-step lists (20_memory.md R66, R67, 40_engine.md
R144, R146). -/

namespace Sys2Proof.Machine

/-- `BusRead(a)` (20_memory.md R66; D13): b1 to b6. The word read is held. -/
def busReadOps (k : WaitKind) (a : AddrSource) : List Micro :=
  [.busAddr a, .busCtrl .read, .wait k, .memRead a, .busData, .busCtrl .ready, .wait k, .busCtrl .idle]

/-- `BusWrite(a, v)` of the word held (20_memory.md R67; D13): w1 to w7. -/
def busWriteOps (k : WaitKind) (a : AddrSource) : List Micro :=
  [.busAddr a, .busData, .busCtrl .write, .wait k, .memWrite a, .busCtrl .ready, .wait k, .busCtrl .idle]

/-- FETCH: f0, f1, f2 (40_engine.md R144). -/
def fetchOps : List Micro := .notifyFetch :: busReadOps .fetch .pc ++ [.latchInstruction]

/-- DECODE: d1, d2, d3 (40_engine.md R146; D14). -/
def decodeOps : List Micro := [.wait .decode, .storeIr, .wait .decode]

/-- The FETCH phase run whole. -/
def fetchPhase (s : State) : PhaseEnd := runMicros .fetch fetchOps s {}

/-- The DECODE phase run whole; it cannot fault (R146). -/
def decodePhase (s : State) : PhaseEnd := runMicros .decode decodeOps s {}

end Sys2Proof.Machine
end

