-- ==== Sys2Proof/Machine/AluInstr.lean ====
section
/-! DEFINITION. The ten ALU instructions in both forms (42_alu.md): EXECUTE is one micro-step list, rule R181, with the operands of R182. -/

namespace Sys2Proof.Machine

/-- EXECUTE of an ALU instruction: a1 to a7, `dest` being the write of a6 (42_alu.md R181). -/
def aluOps (op : AluOp) (a : OperandA) (b : OperandB) (dest : Micro) : List Micro :=
  [.wait .execute, .operands a b, .wait .execute, .alu op, .wait .execute, dest, .wait .execute]

/-- The seven three-operand instructions (R98): A = x[Rn], the result goes to x[Rd]. -/
def alu3Ops (op : AluOp) (rd rn : Reg) (b : OperandB) : List Micro := aluOps op (.reg rn) b (.writeReg rd)

/-- MOV and MVN (R99): A is unused, the result goes to x[Rd]. -/
def alu2Ops (op : AluOp) (rd : Reg) (b : OperandB) : List Micro := aluOps op .unused b (.writeReg rd)

/-- CMP (R192): A = x[Rd], the result goes to FLAGS, and no register of the file is written. -/
def cmpOps (rd : Reg) (b : OperandB) : List Micro := aluOps .cmp (.reg rd) b .writeFlags

/-- ADD, register form: x[Rd] <- x[Rn] + B mod 2^32, B = x[Rm] (42_alu.md R183). -/
def execAddReg (rd rn rm : Reg) (s : State) : Host.Outcome State Fault Refusal :=
  runExecute (alu3Ops .add rd rn (.reg rm)) s

/-- ADD, immediate form: B = the immediate (R183). -/
def execAddImm (rd rn : Reg) (imm : BitVec 19) (s : State) : Host.Outcome State Fault Refusal :=
  runExecute (alu3Ops .add rd rn (.imm imm)) s

/-- SUB, register form: x[Rd] <- x[Rn] - B mod 2^32, B = x[Rm] (42_alu.md R184). -/
def execSubReg (rd rn rm : Reg) (s : State) : Host.Outcome State Fault Refusal :=
  runExecute (alu3Ops .sub rd rn (.reg rm)) s

/-- SUB, immediate form: B = the immediate (R184). -/
def execSubImm (rd rn : Reg) (imm : BitVec 19) (s : State) : Host.Outcome State Fault Refusal :=
  runExecute (alu3Ops .sub rd rn (.imm imm)) s

/-- AND, register form: x[Rd] <- x[Rn] AND B, B = x[Rm] (42_alu.md R185). -/
def execAndReg (rd rn rm : Reg) (s : State) : Host.Outcome State Fault Refusal :=
  runExecute (alu3Ops .and rd rn (.reg rm)) s

/-- AND, immediate form: B = the immediate (R185). -/
def execAndImm (rd rn : Reg) (imm : BitVec 19) (s : State) : Host.Outcome State Fault Refusal :=
  runExecute (alu3Ops .and rd rn (.imm imm)) s

/-- ORR, register form: x[Rd] <- x[Rn] OR B, B = x[Rm] (42_alu.md R186). -/
def execOrrReg (rd rn rm : Reg) (s : State) : Host.Outcome State Fault Refusal :=
  runExecute (alu3Ops .orr rd rn (.reg rm)) s

/-- ORR, immediate form: B = the immediate (R186). -/
def execOrrImm (rd rn : Reg) (imm : BitVec 19) (s : State) : Host.Outcome State Fault Refusal :=
  runExecute (alu3Ops .orr rd rn (.imm imm)) s

/-- EOR, register form: x[Rd] <- x[Rn] XOR B, B = x[Rm] (42_alu.md R187). -/
def execEorReg (rd rn rm : Reg) (s : State) : Host.Outcome State Fault Refusal :=
  runExecute (alu3Ops .eor rd rn (.reg rm)) s

/-- EOR, immediate form: B = the immediate (R187). -/
def execEorImm (rd rn : Reg) (imm : BitVec 19) (s : State) : Host.Outcome State Fault Refusal :=
  runExecute (alu3Ops .eor rd rn (.imm imm)) s

/-- LSL, register form: x[Rd] <- x[Rn] shifted left by B, B = x[Rm] (42_alu.md R188). -/
def execLslReg (rd rn rm : Reg) (s : State) : Host.Outcome State Fault Refusal :=
  runExecute (alu3Ops .lsl rd rn (.reg rm)) s

/-- LSL, immediate form: B = the immediate (R188). -/
def execLslImm (rd rn : Reg) (imm : BitVec 19) (s : State) : Host.Outcome State Fault Refusal :=
  runExecute (alu3Ops .lsl rd rn (.imm imm)) s

/-- LSR, register form: x[Rd] <- x[Rn] shifted right by B, zeros entering, B = x[Rm] (42_alu.md R189). -/
def execLsrReg (rd rn rm : Reg) (s : State) : Host.Outcome State Fault Refusal :=
  runExecute (alu3Ops .lsr rd rn (.reg rm)) s

/-- LSR, immediate form: B = the immediate (R189). -/
def execLsrImm (rd rn : Reg) (imm : BitVec 19) (s : State) : Host.Outcome State Fault Refusal :=
  runExecute (alu3Ops .lsr rd rn (.imm imm)) s

/-- MOV, register form: x[Rd] <- B, B = x[Rm] (42_alu.md R190). -/
def execMovReg (rd rm : Reg) (s : State) : Host.Outcome State Fault Refusal :=
  runExecute (alu2Ops .mov rd (.reg rm)) s

/-- MOV, immediate form: B = the immediate (R190). -/
def execMovImm (rd : Reg) (imm : BitVec 19) (s : State) : Host.Outcome State Fault Refusal :=
  runExecute (alu2Ops .mov rd (.imm imm)) s

/-- MVN, register form: x[Rd] <- NOT B, B = x[Rm] (42_alu.md R191). -/
def execMvnReg (rd rm : Reg) (s : State) : Host.Outcome State Fault Refusal :=
  runExecute (alu2Ops .mvn rd (.reg rm)) s

/-- MVN, immediate form: B = the immediate (R191). -/
def execMvnImm (rd : Reg) (imm : BitVec 19) (s : State) : Host.Outcome State Fault Refusal :=
  runExecute (alu2Ops .mvn rd (.imm imm)) s

/-- CMP, register form: FLAGS <- the flag word of x[Rd] against x[Rm] (42_alu.md R192). -/
def execCmpReg (rd rm : Reg) (s : State) : Host.Outcome State Fault Refusal := runExecute (cmpOps rd (.reg rm)) s

/-- CMP, immediate form (R192). -/
def execCmpImm (rd : Reg) (imm : BitVec 19) (s : State) : Host.Outcome State Fault Refusal :=
  runExecute (cmpOps rd (.imm imm)) s

end Sys2Proof.Machine
end

