-- ==== Sys2Proof/Machine/Branch.lean ====
section
/-! DEFINITION. Control transfer: B, BEQ, BGT, BLT, BNE, and the words of opcode 7 that spell no instruction (43_branch.md). -/

namespace Sys2Proof.Machine

/-- EXECUTE of a branch: j1 to j4 (43_branch.md R212). -/
def branchOps (c : Condition) (label : BitVec 16) : List Micro :=
  [.wait .execute, .readFlags, .branch c label, .wait .execute]

/-- EXECUTE of `B??`: q1, the fault at once (43_branch.md R218). -/
def bxxOps : List Micro := [.raiseIllegal]

/-- B: PC <- label (43_branch.md R213). -/
def execB (label : BitVec 16) (s : State) : Host.Outcome State Fault Refusal := runExecute (branchOps .always label) s

/-- BEQ: PC <- label when FLAGS bit 3 is 1 (43_branch.md R214). -/
def execBeq (label : BitVec 16) (s : State) : Host.Outcome State Fault Refusal := runExecute (branchOps .eq label) s

/-- BGT: PC <- label when FLAGS bit 2 is 1 (43_branch.md R215). -/
def execBgt (label : BitVec 16) (s : State) : Host.Outcome State Fault Refusal := runExecute (branchOps .gt label) s

/-- BLT: PC <- label when FLAGS bit 1 is 1 (43_branch.md R216). -/
def execBlt (label : BitVec 16) (s : State) : Host.Outcome State Fault Refusal := runExecute (branchOps .lt label) s

/-- BNE: PC <- label when FLAGS bit 0 is 1 (43_branch.md R217). -/
def execBne (label : BitVec 16) (s : State) : Host.Outcome State Fault Refusal := runExecute (branchOps .ne label) s

/-- `B??`, subcode 4 to 7: IllegalInstruction(CIR) is taken (43_branch.md R218, 60_exceptions.md R241; D8). -/
def execBxxLow (_sub : BitVec 4) (s : State) : Host.Outcome State Fault Refusal := runExecute bxxOps s

/-- `B??`, subcode 8 to 15: IllegalInstruction(CIR) is taken (R218, R241; D8). -/
def execBxxHigh (_sub : BitVec 4) (s : State) : Host.Outcome State Fault Refusal := runExecute bxxOps s

end Sys2Proof.Machine
end

