-- ==== Sys2Proof/Machine/LoadStore.lean ====
section
/-! DEFINITION. The loads and stores, LDR and STR (41_load_store.md): EXECUTE as a micro-step list, and the meaning that runs it. -/

namespace Sys2Proof.Machine

/-- EXECUTE LDR: l1 to l4 (41_load_store.md R171). -/
def ldrOps (rd : Reg) (ea : BitVec 20) : List Micro :=
  .wait .execute :: busReadOps .execute (.field ea) ++ [.writeReg rd, .wait .execute]

/-- EXECUTE STR: s1 to s3 (41_load_store.md R172). -/
def strOps (rd : Reg) (ea : BitVec 20) : List Micro :=
  .wait .execute :: .holdReg rd :: busWriteOps .execute (.field ea) ++ [.wait .execute]

/-- LDR: x[Rd] <- Mem[ea], or OutOfRange(ea) (R171). -/
def execLdr (rd : Reg) (ea : BitVec 20) (s : State) : Host.Outcome State Fault Refusal := runExecute (ldrOps rd ea) s

/-- STR: Mem[ea] <- x[Rd], or OutOfRange(ea) (R172). -/
def execStr (rd : Reg) (ea : BitVec 20) (s : State) : Host.Outcome State Fault Refusal := runExecute (strOps rd ea) s

end Sys2Proof.Machine
end

