-- ==== Sys2Proof/Machine/OutHalt.lean ====
section
/-! DEFINITION. The environment instructions OUT and HALT (44_out_halt.md). -/

namespace Sys2Proof.Machine

/-- EXECUTE OUT: o1 to o8 (44_out_halt.md R230). -/
def outOps (b : OperandB) : List Micro :=
  [.wait .execute, .holdOperand b, .outBusy true, .wait .execute, .outByte, .wait .execute, .outBusy false, .wait .execute]

/-- EXECUTE HALT: h1, h2 (44_out_halt.md R233). -/
def haltOps : List Micro := [.wait .execute, .halt]

/-- OUT, register form: the low byte of x[Rm] goes to the Output, between busy and not busy (44_out_halt.md R230, R231). -/
def execOutReg (rm : Reg) (s : State) : Host.Outcome State Fault Refusal := runExecute (outOps (.reg rm)) s

/-- OUT, immediate form: the low byte of the immediate (R230, R231). -/
def execOutImm (imm : BitVec 19) (s : State) : Host.Outcome State Fault Refusal := runExecute (outOps (.imm imm)) s

/-- HALT: the run ends Halted (44_out_halt.md R233). -/
def execHalt (s : State) : Host.Outcome State Fault Refusal := runExecute haltOps s

end Sys2Proof.Machine
end

