-- ==== Sys2Proof/Machine/Dispatch.lean ====
section
/-! DEFINITION. The dispatch of EXECUTE on the decoded instruction (40_engine.md R150): one arm a constructor. -/

namespace Sys2Proof.Machine

def exec (i : Instr) (s : State) : Host.Outcome State Fault Refusal :=
  match i with
  | .ldr rd ea => Sys2Proof.Machine.execLdr rd ea s
  | .str rd ea => Sys2Proof.Machine.execStr rd ea s
  | .addReg rd rn rm => Sys2Proof.Machine.execAddReg rd rn rm s
  | .addImm rd rn imm => Sys2Proof.Machine.execAddImm rd rn imm s
  | .subReg rd rn rm => Sys2Proof.Machine.execSubReg rd rn rm s
  | .subImm rd rn imm => Sys2Proof.Machine.execSubImm rd rn imm s
  | .movReg rd rm => Sys2Proof.Machine.execMovReg rd rm s
  | .movImm rd imm => Sys2Proof.Machine.execMovImm rd imm s
  | .cmpReg rd rm => Sys2Proof.Machine.execCmpReg rd rm s
  | .cmpImm rd imm => Sys2Proof.Machine.execCmpImm rd imm s
  | .b label => Sys2Proof.Machine.execB label s
  | .beq label => Sys2Proof.Machine.execBeq label s
  | .bgt label => Sys2Proof.Machine.execBgt label s
  | .blt label => Sys2Proof.Machine.execBlt label s
  | .bne label => Sys2Proof.Machine.execBne label s
  | .bxxLow sub => Sys2Proof.Machine.execBxxLow sub s
  | .bxxHigh sub => Sys2Proof.Machine.execBxxHigh sub s
  | .andReg rd rn rm => Sys2Proof.Machine.execAndReg rd rn rm s
  | .andImm rd rn imm => Sys2Proof.Machine.execAndImm rd rn imm s
  | .orrReg rd rn rm => Sys2Proof.Machine.execOrrReg rd rn rm s
  | .orrImm rd rn imm => Sys2Proof.Machine.execOrrImm rd rn imm s
  | .eorReg rd rn rm => Sys2Proof.Machine.execEorReg rd rn rm s
  | .eorImm rd rn imm => Sys2Proof.Machine.execEorImm rd rn imm s
  | .mvnReg rd rm => Sys2Proof.Machine.execMvnReg rd rm s
  | .mvnImm rd imm => Sys2Proof.Machine.execMvnImm rd imm s
  | .lslReg rd rn rm => Sys2Proof.Machine.execLslReg rd rn rm s
  | .lslImm rd rn imm => Sys2Proof.Machine.execLslImm rd rn imm s
  | .lsrReg rd rn rm => Sys2Proof.Machine.execLsrReg rd rn rm s
  | .lsrImm rd rn imm => Sys2Proof.Machine.execLsrImm rd rn imm s
  | .outReg rm => Sys2Proof.Machine.execOutReg rm s
  | .outImm imm => Sys2Proof.Machine.execOutImm imm s
  | .halt => Sys2Proof.Machine.execHalt s

end Sys2Proof.Machine
end

