-- ==== Sys2Proof/Machine/HostControls.lean ====
section
/-! DEFINITION. The host's controls (60_exceptions.md R250 to R258, 70_reset_and_hazards.md R280 to R289), and when they reach
the engine: the host's turn at a check point (log 5). -/

namespace Sys2Proof.Machine

/-- reset (70_reset_and_hazards.md R280), once no run is active: everything at its reset value; the size of Memory is fixed at
creation (R281), and what the host does next is not the machine's to clear. -/
def State.applyReset (s : State) : State := State.cleared s.mem.last s.agenda

/-- load (70_reset_and_hazards.md R282; D19): Mem[0 .. n-1] <- W and nothing else; a program longer than Memory is refused whole.
While a run is active the host has no such move (10_state.md R39, U14). -/
def State.applyLoad (s : State) (words : List Word) : State :=
  if s.status = .running then s
  else if words.length ≤ s.mem.size then { s with mem := s.mem.loadFrom 0 words }
  else s

/-- run (70_reset_and_hazards.md R283, 40_engine.md R141), once no run is active: a fresh token, STATUS <- Running,
PHASE <- FETCH, and nothing is reset. A phase cut before is not resumed (40_engine.md R155; D17). -/
def State.applyRun (s : State) : State :=
  { s with cancel := some false, status := .running, phase := .fetch, inPhase := none, polling := false }

/-- pause (60_exceptions.md R251). -/
def State.applyPause (s : State) : State := { s with paused := true }

/-- resume (60_exceptions.md R252): no state other than PAUSED changes. -/
def State.applyResume (s : State) : State := { s with paused := false }

/-- step (60_exceptions.md R253; D18): while PAUSED is true, one grant to perform one phase. DESIGN CHOICE, unsafe (log 7): grants
are counted, and a step sent while PAUSED is false, which R289 allows and R253 does not speak of, does nothing. -/
def State.applyStep (s : State) : State := if s.paused then { s with grants := s.grants + 1 } else s

/-- cancel (60_exceptions.md R254): CANCEL <- true for the current run's token; nothing when no run is active. -/
def State.applyCancel (s : State) : State :=
  if s.status = .running then { s with cancel := some true } else s

/-- One host control. `reset` and `run` are applied once no run is active (`deliver`). -/
def HostEvent.apply (e : HostEvent) (s : State) : State :=
  match e with
  | .reset => s.applyReset
  | .load words => s.applyLoad words
  | .run => s.applyRun
  | .pause => s.applyPause
  | .resume => s.applyResume
  | .step => s.applyStep
  | .cancel => s.applyCancel

/-- reset and run first cancel any active run and wait until it has stopped (60_exceptions.md R256, R257). -/
def HostEvent.needsStop : HostEvent → Bool
  | .reset => true
  | .run => true
  | .load _ => false
  | .pause => false
  | .resume => false
  | .step => false
  | .cancel => false

/-- The host's actions of one turn, in order. A reset or run that finds a run active cancels it and waits: it stays at the head
of the agenda, with what follows it, until the run has observed the cancellation (R256, R257). -/
def deliver : List HostEvent → State → State
  | [], s => s
  | e :: es, s =>
    if e.needsStop && decide (s.status = .running) then
      { s with cancel := some true, agenda := (e :: es) :: s.agenda }
    else deliver es (e.apply s)

/-- The host's turn: its next list of actions, if it has any left. -/
def hostTurn (s : State) : State :=
  match s.agenda with
  | [] => s
  | es :: later => deliver es { s with agenda := later }

end Sys2Proof.Machine
end

