-- ==== Sys2Proof/Machine/Engine.lean ====
section
/-! DEFINITION. The cycle engine: one micro-step at a time with its check points (40_engine.md R141 to R143, R154), driven to
the next instruction boundary; and the three phases of one instruction composed, for a run nothing interrupts (R153). -/

namespace Sys2Proof.Machine

/-- The micro-steps of EXECUTE, by the decoded instruction (40_engine.md R150). -/
def executeOps : Instr → List Micro
  | .ldr rd ea => ldrOps rd ea
  | .str rd ea => strOps rd ea
  | .addReg rd rn rm => alu3Ops .add rd rn (.reg rm)
  | .addImm rd rn imm => alu3Ops .add rd rn (.imm imm)
  | .subReg rd rn rm => alu3Ops .sub rd rn (.reg rm)
  | .subImm rd rn imm => alu3Ops .sub rd rn (.imm imm)
  | .movReg rd rm => alu2Ops .mov rd (.reg rm)
  | .movImm rd imm => alu2Ops .mov rd (.imm imm)
  | .cmpReg rd rm => cmpOps rd (.reg rm)
  | .cmpImm rd imm => cmpOps rd (.imm imm)
  | .b label => branchOps .always label
  | .beq label => branchOps .eq label
  | .bgt label => branchOps .gt label
  | .blt label => branchOps .lt label
  | .bne label => branchOps .ne label
  | .bxxLow _ => bxxOps
  | .bxxHigh _ => bxxOps
  | .andReg rd rn rm => alu3Ops .and rd rn (.reg rm)
  | .andImm rd rn imm => alu3Ops .and rd rn (.imm imm)
  | .orrReg rd rn rm => alu3Ops .orr rd rn (.reg rm)
  | .orrImm rd rn imm => alu3Ops .orr rd rn (.imm imm)
  | .eorReg rd rn rm => alu3Ops .eor rd rn (.reg rm)
  | .eorImm rd rn imm => alu3Ops .eor rd rn (.imm imm)
  | .mvnReg rd rm => alu2Ops .mvn rd (.reg rm)
  | .mvnImm rd imm => alu2Ops .mvn rd (.imm imm)
  | .lslReg rd rn rm => alu3Ops .lsl rd rn (.reg rm)
  | .lslImm rd rn imm => alu3Ops .lsl rd rn (.imm imm)
  | .lsrReg rd rn rm => alu3Ops .lsr rd rn (.reg rm)
  | .lsrImm rd rn imm => alu3Ops .lsr rd rn (.imm imm)
  | .outReg rm => outOps (.reg rm)
  | .outImm imm => outOps (.imm imm)
  | .halt => haltOps

/-- The order of the phases (40_engine.md R140, R141). -/
def Phase.next : Phase → Phase
  | .fetch => .decode
  | .decode => .execute
  | .execute => .fetch

/-- The micro-steps of the phase that is due; EXECUTE dispatches on decode(CIR) (40_engine.md R149, R150). -/
def State.phaseOps (s : State) : List Micro :=
  match s.phase with
  | .fetch => fetchOps
  | .decode => decodeOps
  | .execute => executeOps (decode s.cir)

/-- Does a cancellation check find the token set (40_engine.md R143)? -/
def State.cancelSeen (s : State) : Bool := s.cancel == some true

/-- The engine unwinds: STATUS <- Cancelled, and no register, cell, Bus register or output changes (40_engine.md R154). The
in-phase position is given up, since no later run resumes it (R155). -/
def State.stopCancelled (s : State) : State := { s with status := .cancelled, inPhase := none, polling := false }

/-- A phase is complete: the next one is due (40_engine.md R141). -/
def State.endPhase (s : State) : State := { s with phase := s.phase.next, inPhase := none }

/-- After a micro-step: the rest of the phase is to do, or the phase is complete. -/
def State.proceed (s : State) (rest : List Micro) (h : Held) : State :=
  match rest with
  | [] => s.endPhase
  | _ :: _ => { s with inPhase := some ⟨rest, h⟩ }

/-- The phase that is due begins. -/
def State.startPhase (s : State) : State := { s with inPhase := some ⟨s.phaseOps, {}⟩, polling := false }

/-- The condition of the poll loop: "PAUSED and no step grant" (40_engine.md R142). -/
def State.mustWait (s : State) : Bool := s.paused && decide (s.grants = 0)

/-- "consume the step grant if one was used" (40_engine.md R142): a boundary left while PAUSED is true is left by a grant. -/
def State.useGrant (s : State) : State := if s.paused then { s with grants := s.grants - 1 } else s

/-- The phase boundary (40_engine.md R142), from its first check, or from the poll wait when the engine is in it. A run that must
wait checks and then polls. One that leaves the poll consumes the grant it used before the last check; one that never polled has
made its check before any grant is consumed. -/
def State.boundary (s : State) : State :=
  if s.mustWait then
    if s.cancelSeen then s.stopCancelled else { s with polling := true }
  else if s.cancelSeen then
    if s.polling then s.useGrant.stopCancelled else s.stopCancelled
  else s.useGrant.startPhase

/-- A micro-step performed where the run stands. -/
def State.perform (s : State) (op : Micro) (rest : List Micro) (h : Held) : State :=
  match op.run s.phase s h with
  | .goes s' h' => s'.proceed rest h'
  | .ends s' => { s' with inPhase := none }

/-- A `wait`: the cancellation check stands immediately before it (40_engine.md R143). -/
def State.performWait (s : State) (k : WaitKind) (rest : List Micro) (h : Held) : State :=
  if s.cancelSeen then s.stopCancelled else s.perform (.wait k) rest h

/-- One micro-step of the machine. The host has its turn at each check point, that is at a phase boundary and at a wait, before
the check; between check points nothing is interleaved (40_engine.md R143, R154). With no run active only the host moves. -/
def tick (s : State) : State :=
  if s.status = .running then
    match s.inPhase with
    | none => (hostTurn s).boundary
    | some ⟨[], _⟩ => s.endPhase
    | some ⟨.wait k :: rest, h⟩ => (hostTurn s).performWait k rest h
    | some ⟨op :: rest, h⟩ => s.perform op rest h
  else hostTurn s

/-- Where `step` stops driving: no run is active, or the run is at an instruction boundary, or it is held at a phase boundary by
a pause. -/
def State.atRest (s : State) : Bool :=
  decide (s.status ≠ .running)
    || (s.inPhase.isNone && (decide (s.phase = .fetch) || s.mustWait))

/-- Micro-steps until the machine is at rest; none if `fuel` of them do not suffice. -/
def drive : Nat → State → Option State
  | 0, _ => none
  | fuel + 1, s => if (tick s).atRest then some (tick s) else drive fuel (tick s)

/-- More micro-steps than the three phases of any instruction have, boundaries included (at most 27). -/
def microFuel : Nat := 64

/-- Drive the machine to its next rest. -/
def stepMicro (s : State) : Host.Outcome State Fault Refusal :=
  match drive microFuel s with
  | some s' => .next s'
  | none => .fault .overlongPhase

/-- Is the run at an instruction boundary with nothing of the host's in sight: not paused, not cancelled, no action to come? -/
def State.quiet (s : State) : Bool :=
  decide (s.status = .running) && decide (s.phase = .fetch) && s.inPhase.isNone && !s.polling && !s.paused
    && !s.cancelSeen && s.agenda.isEmpty

/-- After EXECUTE: the next FETCH is due, unless the run has ended (40_engine.md R141). -/
def State.afterExecute (s : State) : State := if s.status = .running then { s with phase := .fetch } else s

/-- One instruction with nothing interleaved (40_engine.md R153): FETCH, DECODE, and the meaning of the decoded instruction. -/
def stepInstruction (s : State) : Host.Outcome State Fault Refusal :=
  match fetchPhase s with
  | .ended s1 => .next s1
  | .complete s1 =>
    let s2 := (decodePhase { s1 with phase := .decode }).state
    match exec (decode s2.cir) { s2 with phase := .execute } with
    | .next s3 => .next s3.afterExecute
    | .fault f => .fault f
    | .refused r => .refused r

/-- Where the next instruction is placed for `withFetchWord`: the PC, or the entry point 0 where the PC is outside Memory
(70_reset_and_hazards.md R285). -/
def State.fetchAddress (s : State) : Word := if s.pc.toNat < s.mem.size then s.pc else 0#32

/-- The state in which the very next step fetches and runs the word `v`: it is in Memory at the PC, and a run is at an
instruction boundary with nothing of the host's in sight (log 9). -/
def State.withNextWord (s : State) (v : Word) : State :=
  { s with
    pc := s.fetchAddress
    mem := s.mem.put s.fetchAddress.toNat v
    phase := .fetch
    status := .running
    paused := false
    cancel := some false
    inPhase := none
    polling := false
    agenda := [] }

end Sys2Proof.Machine
end

