-- ==== Sys2Proof/Machine/Step.lean ====
section
/-! DEFINITION. One step of the machine: one instruction of a run that nothing interrupts, and otherwise the engine driven
micro-step by micro-step, with the host's actions where they fall, to its next rest. -/

namespace Sys2Proof.Machine

/-- A step. At an instruction boundary with nothing of the host's in sight it is `stepInstruction` (40_engine.md R153); in every
other state it is `stepMicro`. That the two agree where the first applies is a statement of its own. -/
def step (s : State) : Host.Outcome State Fault Refusal :=
  if s.quiet then stepInstruction s else stepMicro s

/-- `s` with the instruction of bits `w` where the next step fetches, and a run due to fetch it (log 9). -/
def State.withFetchWord (s : State) (nbits w : Nat) : State :=
  match tableWord nbits w with
  | some v => s.withNextWord v
  | none => s

end Sys2Proof.Machine
end

