-- ==== Sys2Proof/Machine/Assembler.lean ====
section
/-! DEFINITION. The assembler (30_encoding.md R110 to R125): source text to machine words. It is software outside the hardware
block (00_scope.md R4) and no part of `State` or `step`; its words reach the machine by the host's load. Text is a list of
characters, so that every function recurses on it. -/

namespace Sys2Proof.Asm

/-- Why a text does not assemble. -/
inductive Reason where
  /-- "Invalid instruction <text>": no parser matches (R121). -/
  | invalidInstruction (text : List Char)
  /-- A literal above 2^32 - 1 (R113). -/
  | literalOutOfRange
  /-- An address, or the word index of a label used as one, above 2^20 - 1 (R114). -/
  | addressOutOfRange
  /-- A register index above ASM_MAX_REG (R116, D5). -/
  | registerOutOfRange
  /-- An immediate above 2^19 - 1 (R117). -/
  | immediateOutOfRange
  /-- A branch label whose word index is above 2^16 - 1 (R120, D22). -/
  | labelOutOfRange
  /-- A label name that no line defines (R114, R120). -/
  | unknownLabel
  /-- A second definition of a label (R122 e, D22). -/
  | duplicateLabel
  deriving DecidableEq, Repr

/-- CompileError{lineNumber, message} (R110), the message kept as its reason. -/
structure CompileError where
  lineNumber : Nat
  reason : Reason
  deriving DecidableEq, Repr

/-- The message, where the source gives its text: one error only (R121). -/
def CompileError.message (e : CompileError) : Option (List Char) :=
  match e.reason with
  | .invalidInstruction text => some ("Invalid instruction ".toList ++ text)
  | .literalOutOfRange => none
  | .addressOutOfRange => none
  | .registerOutOfRange => none
  | .immediateOutOfRange => none
  | .labelOutOfRange => none
  | .unknownLabel => none
  | .duplicateLabel => none

/-- A line after normalisation, with its 1-based number in the text. -/
structure SourceLine where
  number : Nat
  text : List Char
  deriving DecidableEq, Repr

/-- A label name and the word index it is bound to. -/
abbrev Labels := List (List Char × Nat)

/-- What a line that is no label emits: a raw word, or an instruction. -/
inductive Item where
  | data (w : Word)
  | code (i : Instr)
  deriving DecidableEq, Repr

/-- The word an item emits (R108, R113). -/
def Item.word : Item → Word
  | .data w => w
  | .code i => encode i

/-- A space or a tab, what separates the mnemonic from its operands and may stand round a comma (R122 c). -/
def isBlank (c : Char) : Bool := c = ' ' || c = '\t'

/-- What is trimmed at either end of a line (R111): a space, a tab, or a carriage return. DESIGN CHOICE, unsafe for claims about
texts (log 24): the rule does not list the characters. -/
def isTrimmed (c : Char) : Bool := isBlank c || c = '\r'

/-- A letter after lower-casing, or the underscore (R122 b). -/
def isLetter (c : Char) : Bool := c = '_' || (decide ('a'.val ≤ c.val) && decide (c.val ≤ 'z'.val))

/-- A decimal digit (R122 a). -/
def isDigit (c : Char) : Bool := decide ('0'.val ≤ c.val) && decide (c.val ≤ '9'.val)

/-- The pieces of a text between the occurrences of `c`. -/
def splitAt (c : Char) : List Char → List (List Char)
  | [] => [[]]
  | x :: xs =>
    match splitAt c xs with
    | [] => [[x]]
    | piece :: pieces => if x = c then [] :: piece :: pieces else (x :: piece) :: pieces

/-- The line without its trailing comment (R111). -/
def stripComment : List Char → List Char
  | [] => []
  | '/' :: '/' :: _ => []
  | c :: cs => c :: stripComment cs

/-- The text without the characters of `p` at either end. -/
def trim (p : Char → Bool) (t : List Char) : List Char := ((t.dropWhile p).reverse.dropWhile p).reverse

/-- Normalisation of one line (R111). -/
def normalise (t : List Char) : List Char := (trim isTrimmed (stripComment t)).map Char.toLower

/-- The lines of a text, normalised, numbered from `n`, blank ones dropped (R111). -/
def numberLines : Nat → List (List Char) → List SourceLine
  | _, [] => []
  | n, t :: ts =>
    match normalise t with
    | [] => numberLines (n + 1) ts
    | c :: cs => ⟨n, c :: cs⟩ :: numberLines (n + 1) ts

/-- The lines of a source text. -/
def sourceLines (text : List Char) : List SourceLine := numberLines 1 (splitAt '\n' text)

/-- The value of an integer: one or more decimal digits (R122 a). -/
def number (t : List Char) : Option Nat :=
  if !t.isEmpty && t.all isDigit then some (t.foldl (fun n c => 10 * n + (c.toNat - '0'.toNat)) 0) else none

/-- Is the text an identifier (R122 b)? -/
def isIdentifier : List Char → Bool
  | [] => false
  | c :: cs => isLetter c && cs.all (fun d => isLetter d || isDigit d)

/-- The name a label line defines: an identifier and a colon, alone on the line (R112, R122 f). -/
def labelOf (t : List Char) : Option (List Char) :=
  match t.reverse with
  | ':' :: cs => if isIdentifier cs.reverse then some cs.reverse else none
  | _ => none

/-- The word index a label is bound to. -/
def lookup (labels : Labels) (name : List Char) : Option Nat :=
  match labels with
  | [] => none
  | (n, k) :: rest => if n = name then some k else lookup rest name

/-- Pass 1 (R112): the labels of the lines, the first line that is no label being word `counter`. -/
def bindLabels : List SourceLine → Nat → Labels → Except CompileError Labels
  | [], _, labels => .ok labels
  | l :: ls, counter, labels =>
    match labelOf l.text with
    | none => bindLabels ls (counter + 1) labels
    | some name =>
      match lookup labels name with
      | none => bindLabels ls counter (labels ++ [(name, counter)])
      | some _ => .error ⟨l.number, .duplicateLabel⟩

/-- The index of a register token, `r` and a decimal number (R116). -/
def registerToken : List Char → Option Nat
  | 'r' :: cs => number cs
  | _ => none

/-- The value of an immediate token, `#` and an integer (R117). -/
def immediateToken : List Char → Option Nat
  | '#' :: cs => number cs
  | _ => none

/-- The register of an index the assembler accepts (R116, D5). -/
def register (n : Nat) : Except Reason Reg :=
  if n ≤ Config.asmMaxReg then .ok (Fin.ofNat 16 n) else .error .registerOutOfRange

/-- The immediate of a value that fits (R117). -/
def immediate (n : Nat) : Except Reason (BitVec 19) :=
  if n < 2 ^ 19 then .ok (BitVec.ofNat 19 n) else .error .immediateOutOfRange

/-- The address of a value that fits (R114). -/
def address (n : Nat) : Except Reason (BitVec 20) :=
  if n < 2 ^ 20 then .ok (BitVec.ofNat 20 n) else .error .addressOutOfRange

/-- The branch label of a word index that fits (R120, D22). -/
def branchLabel (n : Nat) : Except Reason (BitVec 16) :=
  if n < 2 ^ 16 then .ok (BitVec.ofNat 16 n) else .error .labelOutOfRange

/-- An instruction line: its mnemonic, and its operands at the commas (R122 c). -/
structure Shape where
  mnemonic : List Char
  operands : List (List Char)
  deriving DecidableEq, Repr

/-- The shape of a line. -/
def shape (t : List Char) : Shape where
  mnemonic := t.takeWhile (fun c => !isBlank c)
  operands :=
    match t.dropWhile (fun c => !isBlank c) with
    | [] => []
    | c :: cs => (splitAt ',' (c :: cs)).map (trim isBlank)

/-- The literal word, `#<integer>` (R113). None where the line is of another form, as for every parser below. -/
def parseLiteral (t : List Char) : Option (Except Reason Item) :=
  match immediateToken t with
  | none => none
  | some n => some (if n < 2 ^ 32 then .ok (.data (BitVec.ofNat 32 n)) else .error .literalOutOfRange)

/-- The word index an address operand stands for: digits are the address, anything else is a label name (R114, R122 d). -/
def addressOperand (labels : Labels) (t : List Char) : Except Reason (BitVec 20) :=
  match number t with
  | some n => address n
  | none =>
    match lookup labels t with
    | some n => address n
    | none => .error .unknownLabel

/-- The two memory-reference instructions by name. -/
def memForm : List Char → Option (Reg → BitVec 20 → Instr)
  | ['l', 'd', 'r'] => some .ldr
  | ['s', 't', 'r'] => some .str
  | _ => none

/-- The memory-reference family (R114). -/
def parseMem (labels : Labels) (s : Shape) : Option (Except Reason Item) :=
  match memForm s.mnemonic, s.operands with
  | some f, [d, a] =>
    match registerToken d with
    | none => none
    | some rd => some (do return .code (f (← register rd) (← addressOperand labels a)))
  | _, _ => none

/-- The seven three-operand ALU instructions by name: register form and immediate form. -/
def alu3Form : List Char → Option ((Reg → Reg → Reg → Instr) × (Reg → Reg → BitVec 19 → Instr))
  | ['a', 'd', 'd'] => some (.addReg, .addImm)
  | ['s', 'u', 'b'] => some (.subReg, .subImm)
  | ['a', 'n', 'd'] => some (.andReg, .andImm)
  | ['o', 'r', 'r'] => some (.orrReg, .orrImm)
  | ['e', 'o', 'r'] => some (.eorReg, .eorImm)
  | ['l', 's', 'l'] => some (.lslReg, .lslImm)
  | ['l', 's', 'r'] => some (.lsrReg, .lsrImm)
  | _ => none

/-- The three-operand ALU family (R115). -/
def parseAlu3 (s : Shape) : Option (Except Reason Item) :=
  match alu3Form s.mnemonic, s.operands with
  | some (f, g), [d, n, b] =>
    match registerToken d, registerToken n, registerToken b, immediateToken b with
    | some rd, some rn, some rm, _ => some (do return .code (f (← register rd) (← register rn) (← register rm)))
    | some rd, some rn, none, some i => some (do return .code (g (← register rd) (← register rn) (← immediate i)))
    | _, _, _, _ => none
  | _, _ => none

/-- The three two-operand ALU instructions by name: register form and immediate form. -/
def alu2Form : List Char → Option ((Reg → Reg → Instr) × (Reg → BitVec 19 → Instr))
  | ['m', 'o', 'v'] => some (.movReg, .movImm)
  | ['m', 'v', 'n'] => some (.mvnReg, .mvnImm)
  | ['c', 'm', 'p'] => some (.cmpReg, .cmpImm)
  | _ => none

/-- The two-operand ALU family (R118). -/
def parseAlu2 (s : Shape) : Option (Except Reason Item) :=
  match alu2Form s.mnemonic, s.operands with
  | some (f, g), [d, b] =>
    match registerToken d, registerToken b, immediateToken b with
    | some rd, some rm, _ => some (do return .code (f (← register rd) (← register rm)))
    | some rd, none, some i => some (do return .code (g (← register rd) (← immediate i)))
    | _, _, _ => none
  | _, _ => none

/-- OUT (R119). -/
def parseOut (s : Shape) : Option (Except Reason Item) :=
  match s.mnemonic, s.operands with
  | ['o', 'u', 't'], [b] =>
    match registerToken b, immediateToken b with
    | some rm, _ => some (do return .code (.outReg (← register rm)))
    | none, some i => some (do return .code (.outImm (← immediate i)))
    | none, none => none
  | _, _ => none

/-- The five branches by name. -/
def branchForm : List Char → Option (BitVec 16 → Instr)
  | ['b'] => some .b
  | ['b', 'e', 'q'] => some .beq
  | ['b', 'g', 't'] => some .bgt
  | ['b', 'l', 't'] => some .blt
  | ['b', 'n', 'e'] => some .bne
  | _ => none

/-- The branch family: the operand is a label name only (R120). DESIGN CHOICE, unsafe for claims about texts (log 24): a line of one
operand whose mnemonic is unknown (`foo loop`, `halt r0`) is no branch line, so it is reported by the fall-through as "Invalid
instruction <text>" and not here; R120 makes an unknown branch mnemonic a CompileError, and the source does not say who reports it
(95_test_vectors.md V13). -/
def parseBranch (labels : Labels) (s : Shape) : Option (Except Reason Item) :=
  match branchForm s.mnemonic, s.operands with
  | some f, [name] =>
    match lookup labels name with
    | none => some (.error .unknownLabel)
    | some n => some (do return .code (f (← branchLabel n)))
  | _, _ => none

/-- HALT: "exact literal `halt`, no operands" (R121). -/
def parseHalt (t : List Char) : Option (Except Reason Item) :=
  match t with
  | ['h', 'a', 'l', 't'] => some (.ok (.code .halt))
  | _ => none

/-- Pass 2 of one line: the parsers in their order, first match wins (R113 to R121). -/
def parseLine (labels : Labels) (t : List Char) : Except Reason Item :=
  (parseLiteral t <|> parseMem labels (shape t) <|> parseAlu3 (shape t) <|> parseAlu2 (shape t) <|> parseOut (shape t)
    <|> parseBranch labels (shape t) <|> parseHalt t).getD (.error (.invalidInstruction t))

/-- Pass 2 of the lines, label lines emitting nothing: what each line emits, with the line's number; the first error wins
(R110). -/
def parseLines (labels : Labels) : List SourceLine → Except CompileError (List (Item × Nat))
  | [] => .ok []
  | l :: ls =>
    match labelOf l.text with
    | some _ => parseLines labels ls
    | none =>
      match parseLine labels l.text with
      | .error r => .error ⟨l.number, r⟩
      | .ok item =>
        match parseLines labels ls with
        | .error e => .error e
        | .ok items => .ok ((item, l.number) :: items)

/-- The items of a text, with the line each stands on. -/
def assembleItems (text : List Char) : Except CompileError (List (Item × Nat)) :=
  match bindLabels (sourceLines text) 0 [] with
  | .error e => .error e
  | .ok labels => parseLines labels (sourceLines text)

/-- The assembler's output (R110): the machine words, and the line map from word index to source line (R124). -/
structure Assembly where
  machineWords : List Word
  sourceLineOf : List (Nat × Nat)
  deriving DecidableEq, Repr

/-- `assemble` (R110): the words and the line map, or one CompileError. -/
def assemble (text : List Char) : Except CompileError Assembly :=
  match assembleItems text with
  | .error e => .error e
  | .ok items => .ok {
      machineWords := items.map (fun p => p.1.word)
      sourceLineOf := (List.range items.length).zip (items.map (fun p => p.2)) }

end Sys2Proof.Asm
end

