-- ==== Sys2Proof/Machine/Observe.lean ====
section
/-! DEFINITION. What observers are told (60_exceptions.md R262, R263): the FetchAt notification, every phase transition, every
write to a slot of the register file, and the Bus registers and OUT_BUSY as they change, whether the engine writes them or the
host's reset or run. The form of a notification is a DESIGN CHOICE, safe (log 23): it is a function of the state; nothing reads
it back, so no observer can change anything. -/

namespace Sys2Proof.Machine

/-- One notification. -/
inductive Notice where
  /-- FetchAt(PC), the address about to be fetched (R262, D24). -/
  | fetchAt (pc : Word)
  /-- The phase that is due from now on. -/
  | phase (p : Phase)
  /-- Slot `i` of the register file is written with `w`. -/
  | slot (i : Fin 23) (w : Word)
  | busAddr (w : Word)
  | busData (w : Word)
  | busCtrl (c : BusCtrl)
  | outBusy (busy : Bool)
  deriving DecidableEq, Repr

/-- A register an instruction can name, as a slot of the file (10_state.md R23). -/
def slotOfReg (r : Reg) : Fin 23 := ⟨r.val, by omega⟩

/-- What the observers are told of one micro-step performed in `s` with the values `h`. -/
def Micro.notices (s : State) (h : Held) : Micro → List Notice
  | .wait _ => []
  | .notifyFetch => [.fetchAt s.pc]
  | .busAddr a => [.busAddr (a.value s)]
  | .busCtrl c => [.busCtrl c]
  | .memRead _ => []
  | .busData => [.busData h.val]
  | .memWrite _ => []
  | .latchInstruction => [.slot 17 h.val, .slot 16 (s.pc + 1#32)]
  | .storeIr => [.slot 18 s.cir]
  | .holdReg _ => []
  | .operands a b => [.slot 19 (s.operandA a), .slot 20 (s.operandB b)]
  | .alu op => [.slot 21 (op.apply h.opA h.opB)]
  | .writeReg rd => [.slot (slotOfReg rd) h.val]
  | .writeFlags => [.slot 22 h.val]
  | .readFlags => []
  | .branch c target => if c.holds h.val then [.slot 16 (branchTarget target)] else []
  | .holdOperand _ => []
  | .outBusy busy => [.outBusy busy]
  | .outByte => []
  | .halt => [.phase .fetch]
  | .raiseIllegal => []

/-- What the observers are told of a micro-step that is performed in `s` with `rest` to do after it: its own notifications, and the
phase transition when it completes its phase. -/
def State.performNotices (s : State) (op : Micro) (rest : List Micro) (h : Held) : List Notice :=
  op.notices s h ++
    match op.run s.phase s h, rest with
    | .goes _ _, [] => [.phase s.phase.next]
    | _, _ => []

/-- What the observers are told of a host control that is carried out: the register, Bus and OUT_BUSY writes of reset and its
PHASE <- FETCH (70_reset_and_hazards.md R280), and the PHASE <- FETCH of run (R283). -/
def HostEvent.notices : HostEvent → List Notice
  | .reset =>
    (List.finRange 23).map (fun i => .slot i 0#32)
      ++ [.busAddr 0#32, .busData 0#32, .busCtrl .idle, .outBusy false, .phase .fetch]
  | .run => [.phase .fetch]
  | .load _ => []
  | .pause => []
  | .resume => []
  | .step => []
  | .cancel => []

/-- What the observers are told of the host's actions of one turn; a reset or run that has to wait is not carried out (`deliver`). -/
def deliverNotices : List HostEvent → State → List Notice
  | [], _ => []
  | e :: es, s =>
    if e.needsStop && decide (s.status = .running) then [] else e.notices ++ deliverNotices es (e.apply s)

/-- What the observers are told of the host's turn. -/
def State.hostNotices (s : State) : List Notice :=
  match s.agenda with
  | [] => []
  | es :: later => deliverNotices es { s with agenda := later }

/-- What the observers are told of the next `tick`: of the host's turn where it has one, and of the micro-step where it is
performed. A wait whose check finds the token set is not performed, so nothing is told of it (40_engine.md R143, R154). -/
def State.notices (s : State) : List Notice :=
  if s.status = .running then
    match s.inPhase with
    | none => s.hostNotices
    | some ⟨[], _⟩ => [.phase s.phase.next]
    | some ⟨.wait k :: rest, h⟩ =>
      s.hostNotices ++ if (hostTurn s).cancelSeen then [] else (hostTurn s).performNotices (.wait k) rest h
    | some ⟨op :: rest, h⟩ => s.performNotices op rest h
  else s.hostNotices

end Sys2Proof.Machine
end

