-- ==== Sys2Proof/Safety.lean ====
section
/-! DEFINITION. What claims call a legal state: facts the spec gives about every state the machine can be in, for states between
steps and in the middle of a phase alike, each part decidable, so that a claim can be tried on a state; and the terms in which
claims speak of instructions, texts and notifications. -/

namespace Sys2Proof

/-- The register of the file an instruction writes when it completes (10_state.md R21): LDR and the ALU instructions but CMP
write Rd; no other instruction writes one. -/
def Instr.destination : Instr → Option Reg
  | .ldr rd _ => some rd
  | .addReg rd _ _ => some rd
  | .addImm rd _ _ => some rd
  | .subReg rd _ _ => some rd
  | .subImm rd _ _ => some rd
  | .movReg rd _ => some rd
  | .movImm rd _ => some rd
  | .andReg rd _ _ => some rd
  | .andImm rd _ _ => some rd
  | .orrReg rd _ _ => some rd
  | .orrImm rd _ _ => some rd
  | .eorReg rd _ _ => some rd
  | .eorImm rd _ _ => some rd
  | .mvnReg rd _ => some rd
  | .mvnImm rd _ => some rd
  | .lslReg rd _ _ => some rd
  | .lslImm rd _ _ => some rd
  | .lsrReg rd _ _ => some rd
  | .lsrImm rd _ _ => some rd
  | .str _ _ => none
  | .cmpReg _ _ => none
  | .cmpImm _ _ => none
  | .b _ => none
  | .beq _ => none
  | .bgt _ => none
  | .blt _ => none
  | .bne _ => none
  | .bxxLow _ => none
  | .bxxHigh _ => none
  | .outReg _ => none
  | .outImm _ => none
  | .halt => none

/-- Which of the families of 40_engine.md R150 an instruction is of; CMP apart, since it alone writes FLAGS. -/
inductive Family where
  | load | store | alu | compare | branch | unassigned | output | stop
  deriving DecidableEq, Repr

/-- The family of an instruction. -/
def Instr.family : Instr → Family
  | .ldr _ _ => .load
  | .str _ _ => .store
  | .addReg _ _ _ => .alu
  | .addImm _ _ _ => .alu
  | .subReg _ _ _ => .alu
  | .subImm _ _ _ => .alu
  | .movReg _ _ => .alu
  | .movImm _ _ => .alu
  | .andReg _ _ _ => .alu
  | .andImm _ _ _ => .alu
  | .orrReg _ _ _ => .alu
  | .orrImm _ _ _ => .alu
  | .eorReg _ _ _ => .alu
  | .eorImm _ _ _ => .alu
  | .mvnReg _ _ => .alu
  | .mvnImm _ _ => .alu
  | .lslReg _ _ _ => .alu
  | .lslImm _ _ _ => .alu
  | .lsrReg _ _ _ => .alu
  | .lsrImm _ _ _ => .alu
  | .cmpReg _ _ => .compare
  | .cmpImm _ _ => .compare
  | .b _ => .branch
  | .beq _ => .branch
  | .bgt _ => .branch
  | .blt _ => .branch
  | .bne _ => .branch
  | .bxxLow _ => .unassigned
  | .bxxHigh _ => .unassigned
  | .outReg _ => .output
  | .outImm _ => .output
  | .halt => .stop

/-- An operand as the assembler's text writes it. -/
inductive Operand where
  | reg (r : Reg)
  | imm (i : BitVec 19)
  | addr (a : BitVec 20)
  | label (l : BitVec 16)
  deriving DecidableEq, Repr

/-- The operands of an instruction in the order of its assembly form (30_encoding.md R97 to R103). `B??` has no assembly form. -/
def Instr.operands : Instr → List Operand
  | .ldr rd ea => [.reg rd, .addr ea]
  | .str rd ea => [.reg rd, .addr ea]
  | .addReg rd rn rm => [.reg rd, .reg rn, .reg rm]
  | .addImm rd rn imm => [.reg rd, .reg rn, .imm imm]
  | .subReg rd rn rm => [.reg rd, .reg rn, .reg rm]
  | .subImm rd rn imm => [.reg rd, .reg rn, .imm imm]
  | .movReg rd rm => [.reg rd, .reg rm]
  | .movImm rd imm => [.reg rd, .imm imm]
  | .cmpReg rd rm => [.reg rd, .reg rm]
  | .cmpImm rd imm => [.reg rd, .imm imm]
  | .b label => [.label label]
  | .beq label => [.label label]
  | .bgt label => [.label label]
  | .blt label => [.label label]
  | .bne label => [.label label]
  | .bxxLow _ => []
  | .bxxHigh _ => []
  | .andReg rd rn rm => [.reg rd, .reg rn, .reg rm]
  | .andImm rd rn imm => [.reg rd, .reg rn, .imm imm]
  | .orrReg rd rn rm => [.reg rd, .reg rn, .reg rm]
  | .orrImm rd rn imm => [.reg rd, .reg rn, .imm imm]
  | .eorReg rd rn rm => [.reg rd, .reg rn, .reg rm]
  | .eorImm rd rn imm => [.reg rd, .reg rn, .imm imm]
  | .mvnReg rd rm => [.reg rd, .reg rm]
  | .mvnImm rd imm => [.reg rd, .imm imm]
  | .lslReg rd rn rm => [.reg rd, .reg rn, .reg rm]
  | .lslImm rd rn imm => [.reg rd, .reg rn, .imm imm]
  | .lsrReg rd rn rm => [.reg rd, .reg rn, .reg rm]
  | .lsrImm rd rn imm => [.reg rd, .reg rn, .imm imm]
  | .outReg rm => [.reg rm]
  | .outImm imm => [.imm imm]
  | .halt => []

/-- The text of a mnemonic; `B??` is no text the assembler takes. -/
def Mnemonic.text : Mnemonic → List Char
  | .ldr => "ldr".toList
  | .str => "str".toList
  | .add => "add".toList
  | .sub => "sub".toList
  | .mov => "mov".toList
  | .cmp => "cmp".toList
  | .b => "b".toList
  | .beq => "beq".toList
  | .bgt => "bgt".toList
  | .blt => "blt".toList
  | .bne => "bne".toList
  | .bxx => "b??".toList
  | .and => "and".toList
  | .orr => "orr".toList
  | .eor => "eor".toList
  | .mvn => "mvn".toList
  | .lsl => "lsl".toList
  | .lsr => "lsr".toList
  | .out => "out".toList
  | .halt => "halt".toList

/-- Does the text `t` write the operand: a register token, an immediate token, an address in digits or by a label, a label
(30_encoding.md R114, R116, R117, R120)? -/
def Asm.operandSpelt (labels : Asm.Labels) (t : List Char) : Operand → Bool
  | .reg r => decide (Asm.registerToken t = some r.val)
  | .imm i => decide (Asm.immediateToken t = some i.toNat)
  | .addr a =>
    decide (Asm.number t = some a.toNat) || (decide (Asm.number t = none) && decide (Asm.lookup labels t = some a.toNat))
  | .label l => decide (Asm.lookup labels t = some l.toNat)

/-- Do the operand texts write the operands, one by one? -/
def Asm.operandsSpelt (labels : Asm.Labels) : List (List Char) → List Operand → Bool
  | [], [] => true
  | t :: ts, o :: os => Asm.operandSpelt labels t o && Asm.operandsSpelt labels ts os
  | [], _ :: _ => false
  | _ :: _, [] => false

end Sys2Proof

namespace Sys2Proof.Machine

/-- Can the rest of a phase write only a legal flag word? `known` says that the value held is one; CMP's result is one, and so
is FLAGS read back (10_state.md R32). -/
def flagsReady (known : Bool) : List Micro → Bool
  | [] => true
  | .writeFlags :: rest => known && flagsReady known rest
  | .alu op :: rest => flagsReady (decide (op = .cmp)) rest
  | .memRead _ :: rest => flagsReady false rest
  | .holdReg _ :: rest => flagsReady false rest
  | .holdOperand _ :: rest => flagsReady false rest
  | .readFlags :: rest => flagsReady true rest
  | .wait _ :: rest => flagsReady known rest
  | .notifyFetch :: rest => flagsReady known rest
  | .busAddr _ :: rest => flagsReady known rest
  | .busCtrl _ :: rest => flagsReady known rest
  | .busData :: rest => flagsReady known rest
  | .memWrite _ :: rest => flagsReady known rest
  | .latchInstruction :: rest => flagsReady known rest
  | .storeIr :: rest => flagsReady known rest
  | .operands _ _ :: rest => flagsReady known rest
  | .writeReg _ :: rest => flagsReady known rest
  | .branch _ _ :: rest => flagsReady known rest
  | .outBusy _ :: rest => flagsReady known rest
  | .outByte :: rest => flagsReady known rest
  | .halt :: rest => flagsReady known rest
  | .raiseIllegal :: rest => flagsReady known rest

/-- The in-phase position is a position of the list of the phase in progress, and only an active run has one
(10_state.md R36, 40_engine.md R155). -/
def State.positionOk (s : State) : Bool :=
  match s.inPhase with
  | none => true
  | some p =>
    decide (s.status = .running) && p.todo.isSuffixOf s.phaseOps && flagsReady (flagsLegal p.held.val) p.todo

/-- From the store of DECODE on, through EXECUTE, IR = some CIR (40_engine.md R149). -/
def State.irOk (s : State) : Bool :=
  match s.phase with
  | .fetch => true
  | .decode =>
    match s.inPhase with
    | none => true
    | some p => p.todo.contains .storeIr || decide (s.ir = some s.cir)
  | .execute => decide (s.ir = some s.cir)

/-- A fault on record is one the machine raises (60_exceptions.md R240, R241, R243, R244): its phase is the phase the machine
stands in, an OutOfRange address is outside Memory, and an illegal word is the `B??` in CIR. -/
def State.faultOk (s : State) : Bool :=
  match s.status with
  | .faulted f =>
    decide (f.phase = s.phase) &&
      match f.kind with
      | .outOfRange => decide (s.mem.size ≤ f.value.toNat)
      | .illegalInstruction =>
        decide (f.phase = .execute) && decide (f.value = s.cir) && decide ((decodeFields s.cir).mnemonic = .bxx)
  | .idle => true
  | .running => true
  | .halted => true
  | .cancelled => true

/-- An active run has its token (10_state.md R36). -/
def State.tokenOk (s : State) : Bool :=
  match s.status with
  | .running => s.cancel.isSome
  | .idle => true
  | .halted => true
  | .cancelled => true
  | .faulted _ => true

/-- Only an active run that stands at a boundary and must wait there is in the poll (40_engine.md R142). -/
def State.pollOk (s : State) : Bool :=
  !s.polling || (decide (s.status = .running) && s.inPhase.isNone && s.mustWait)

/-- A legal state: Memory in canonical form, FLAGS one of its four values (10_state.md R32), and the control state consistent. -/
def State.legal (s : State) : Bool :=
  s.mem.wf && flagsLegal s.flags && s.positionOk && s.pollOk && s.irOk && s.faultOk && s.tokenOk

/-- The state in which EXECUTE of the word `w` begins, FETCH and DECODE having run from `s` with nothing interleaved
(40_engine.md R144, R146, R153). -/
def State.readyToExecute (s : State) (w : Word) : State :=
  { s with
    cir := w
    pc := s.pc + 1#32
    ir := some w
    busAddr := s.pc
    busData := w
    busCtrl := .idle
    phase := .execute }

/-- The good end of a run: HALT reached without error (60_exceptions.md R246). -/
def State.goodEnd (s : State) : Bool := decide (s.status = .halted)

/-- The launch of 70_reset_and_hazards.md R284 as the host's doing: from the reset state, load the words and run. -/
def State.launch (words : List Word) : State := { State.reset with agenda := [[.load words, .run]] }

/-- Is the run at a check point, that is at a phase boundary or before a wait (40_engine.md R142, R143)? -/
def State.atCheckPoint (s : State) : Bool :=
  decide (s.status = .running) &&
    match s.inPhase with
    | none => true
    | some ⟨.wait _ :: _, _⟩ => true
    | some _ => false

/-- The notifications `ns` tell exactly what changes from `s` to `t` in the slots, the Bus and OUT_BUSY: what is notified holds the
value notified, and what is not notified is unchanged (60_exceptions.md R263). -/
def noticesTell (ns : List Notice) (s t : State) : Prop :=
  (∀ (i : Fin 23) (w : Word), .slot i w ∈ ns → t.slot i = w) ∧
  (∀ i : Fin 23, (∀ w : Word, .slot i w ∉ ns) → t.slot i = s.slot i) ∧
  (∀ w : Word, .busAddr w ∈ ns → t.busAddr = w) ∧ ((∀ w : Word, .busAddr w ∉ ns) → t.busAddr = s.busAddr) ∧
  (∀ w : Word, .busData w ∈ ns → t.busData = w) ∧ ((∀ w : Word, .busData w ∉ ns) → t.busData = s.busData) ∧
  (∀ c : BusCtrl, .busCtrl c ∈ ns → t.busCtrl = c) ∧ ((∀ c : BusCtrl, .busCtrl c ∉ ns) → t.busCtrl = s.busCtrl) ∧
  (∀ b : Bool, .outBusy b ∈ ns → t.outBusy = b) ∧ ((∀ b : Bool, .outBusy b ∉ ns) → t.outBusy = s.outBusy)

end Sys2Proof.Machine
end

