-- ==== Sys2Proof/Certificates/Slice0/Obligations.lean ====
section
/-! DEFINITION. The statements about the machine, for the provers. Each docstring says which rule of spec/ it formalises; one
that rests on a choice the spec marks as its own, or on the model's, names it. No statement rests on the value of an opaque
constant or of the model's own field `agenda` at reset. -/

open Sys2Proof Sys2Proof.Machine

/-! ### Encoding -/

/-- 30_encoding.md R109: decoding an encoded instruction gives it back, every operand at every value; and encoding a decoded
word gives the word back up to its ignored bits, so no meaningful bit is lost either way. -/
def Obligations.DecodeEncodeRoundTrip : Prop :=
  (∀ i : Instr, wellFormed i = true → decode (encode i) = i) ∧
  (∀ w : Word, encode (decode w) = w &&& meaningfulMask w)

/-- 30_encoding.md R108: `w = opcode * 2^28 + (op2 contribution) + Rn * 2^4 + Rd`, fields a format lacks being 0. Derived: the rule
packs at the positions of R91 to R95, and those of Rm and branchLabel are D1 and D2 (log 10). -/
def Obligations.EncodePacksFields : Prop :=
  (∀ (rd : Reg) (ea : BitVec 20), (encode (.ldr rd ea)).toNat = 0 * 2 ^ 28 + ea.toNat * 2 ^ 8 + rd.val) ∧
  (∀ (rd : Reg) (ea : BitVec 20), (encode (.str rd ea)).toNat = 1 * 2 ^ 28 + ea.toNat * 2 ^ 8 + rd.val) ∧
  (∀ rd rn rm : Reg,
    let regForm (op : Nat) := op * 2 ^ 28 + (2 ^ 27 + rm.val * 2 ^ 8) + rn.val * 2 ^ 4 + rd.val
    (encode (.addReg rd rn rm)).toNat = regForm 2 ∧ (encode (.subReg rd rn rm)).toNat = regForm 3 ∧
    (encode (.andReg rd rn rm)).toNat = regForm 8 ∧ (encode (.orrReg rd rn rm)).toNat = regForm 9 ∧
    (encode (.eorReg rd rn rm)).toNat = regForm 10 ∧ (encode (.lslReg rd rn rm)).toNat = regForm 12 ∧
    (encode (.lsrReg rd rn rm)).toNat = regForm 13) ∧
  (∀ (rd rn : Reg) (imm : BitVec 19),
    let immForm (op : Nat) := op * 2 ^ 28 + imm.toNat * 2 ^ 8 + rn.val * 2 ^ 4 + rd.val
    (encode (.addImm rd rn imm)).toNat = immForm 2 ∧ (encode (.subImm rd rn imm)).toNat = immForm 3 ∧
    (encode (.andImm rd rn imm)).toNat = immForm 8 ∧ (encode (.orrImm rd rn imm)).toNat = immForm 9 ∧
    (encode (.eorImm rd rn imm)).toNat = immForm 10 ∧ (encode (.lslImm rd rn imm)).toNat = immForm 12 ∧
    (encode (.lsrImm rd rn imm)).toNat = immForm 13) ∧
  (∀ rd rm : Reg,
    let regForm (op : Nat) := op * 2 ^ 28 + (2 ^ 27 + rm.val * 2 ^ 8) + rd.val
    (encode (.movReg rd rm)).toNat = regForm 4 ∧ (encode (.cmpReg rd rm)).toNat = regForm 5 ∧
    (encode (.mvnReg rd rm)).toNat = regForm 11) ∧
  (∀ (rd : Reg) (imm : BitVec 19),
    let immForm (op : Nat) := op * 2 ^ 28 + imm.toNat * 2 ^ 8 + rd.val
    (encode (.movImm rd imm)).toNat = immForm 4 ∧ (encode (.cmpImm rd imm)).toNat = immForm 5 ∧
    (encode (.mvnImm rd imm)).toNat = immForm 11) ∧
  (∀ rm : Reg, (encode (.outReg rm)).toNat = 14 * 2 ^ 28 + (2 ^ 27 + rm.val * 2 ^ 8)) ∧
  (∀ imm : BitVec 19, (encode (.outImm imm)).toNat = 14 * 2 ^ 28 + imm.toNat * 2 ^ 8) ∧
  (∀ label : BitVec 16, (encode (.b label)).toNat = 6 * 2 ^ 28 + label.toNat * 2 ^ 8) ∧
  (∀ label : BitVec 16,
    let bcc (sub : Nat) := 7 * 2 ^ 28 + (sub * 2 ^ 24 + label.toNat * 2 ^ 8)
    (encode (.beq label)).toNat = bcc 0 ∧ (encode (.bgt label)).toNat = bcc 1 ∧
    (encode (.blt label)).toNat = bcc 2 ∧ (encode (.bne label)).toNat = bcc 3) ∧
  (encode .halt).toNat = 15 * 2 ^ 28

/-- 40_engine.md R147 and R148: every field of the decoded record is `floor(w / 2^lo) mod 2^width` of the word, and the mnemonic
is resolved from opcode and, for opcode 7, subcode. Derived: the positions of Rm and branchLabel and the mnemonic of subcodes 4
to 15 are the spec's own choices (D1, D2, D8), as is the unsigned immediate (D3). -/
def Obligations.DecodeExtractsFields : Prop :=
  ∀ w : Word,
    let d := decodeFields w
    d.opcode.toNat = w.toNat / 2 ^ 28 % 2 ^ 4 ∧
    d.subcode.toNat = w.toNat / 2 ^ 24 % 2 ^ 4 ∧
    (d.registerOperandFlag = true ↔ w.toNat / 2 ^ 27 % 2 = 1) ∧
    d.immediate.toNat = w.toNat / 2 ^ 8 % 2 ^ 19 ∧
    d.memoryAddress.toNat = w.toNat / 2 ^ 8 % 2 ^ 20 ∧
    d.branchLabel.toNat = w.toNat / 2 ^ 8 % 2 ^ 16 ∧
    d.rm.val = w.toNat / 2 ^ 8 % 2 ^ 4 ∧
    d.rn.val = w.toNat / 2 ^ 4 % 2 ^ 4 ∧
    d.rd.val = w.toNat % 2 ^ 4 ∧
    some d.mnemonic =
      ([.ldr, .str, .add, .sub, .mov, .cmp, .b,
        ([.beq, .bgt, .blt, .bne] : List Mnemonic).getD d.subcode.toNat .bxx,
        .and, .orr, .eor, .mvn, .lsl, .lsr, .out, .halt] : List Mnemonic)[d.opcode.toNat]?

/-- 30_encoding.md R105: two words that agree in the meaningful fields of one of them are the same instruction; with the rule's
three examples. Derived: where the fields of a register form and a branch stand is D1 and D2. -/
def Obligations.IgnoredBitsDoNotMatter : Prop :=
  (∀ v w : Word, v &&& meaningfulMask w = w &&& meaningfulMask w → decode v = decode w) ∧
  decode 0xF0000000#32 = decode 0xFFFFFFFF#32 ∧
  decode 0x28000210#32 = decode 0x2FFFF210#32 ∧
  decode 0x60000100#32 = decode 0x6F0001FF#32

/-- The opcode table (spec/opcode_table.json): every word matches the row of the instruction it decodes to, and matches the row
of no other kind of instruction. Derived: the two `B??` rows are D8. -/
def Obligations.EveryWordMatchesOneRow : Prop :=
  ∀ w : Word,
    w &&& (tableRow (decode w)).1 = (tableRow (decode w)).2 ∧
    ∀ i : Instr, w &&& (tableRow i).1 = (tableRow i).2 → tableRow i = tableRow (decode w)

/-- 30_encoding.md R90, R106: reading an instruction takes exactly one word, succeeds on every word, and gives a well-formed
instruction; only an empty list of words is rejected. Derived: what words of opcode 7 and subcode 4 to 15 decode to is D8. -/
def Obligations.DecodingIsTotal : Prop :=
  (∀ (w : Word) (rest : List Word), decodeWords (w :: rest) = .ok (decode w, rest)) ∧
  (∀ w : Word, wellFormed (decode w) = true) ∧
  decodeWords [] = .error .noWord

/-- 30_encoding.md R103: any word with w[31:28] = 15 is HALT, no other word is, and the assembler's word is 0xF0000000. -/
def Obligations.HaltWords : Prop :=
  (∀ w : Word, decode w = .halt ↔ w.toNat / 2 ^ 28 = 15) ∧ encode .halt = 0xF0000000#32

/-- Words written out from the encodings of 30_encoding.md R97 to R103, at least one of each format and of each family, as
95_test_vectors.md V1 and V2 list them. Derived: the register forms rest on D1, the branches on D2 (log 10), the unsigned
immediates on D3 (log 11), the two `B??` words on D8 (log 14). -/
def Obligations.SampleWordsDecode : Prop :=
  decode 0x0FFFFF0A#32 = .ldr 10 1048575#20 ∧ decode 0x1000FF07#32 = .str 7 255#20 ∧
  decode 0x28000321#32 = .addReg 1 2 3 ∧ decode 0x27FFFFAA#32 = .addImm 10 10 524287#19 ∧
  decode 0xB8000301#32 = .mvnReg 1 3 ∧ decode 0x50000701#32 = .cmpImm 1 7#19 ∧
  decode 0x60FFFF00#32 = .b 65535#16 ∧ decode 0x73FFFF00#32 = .bne 65535#16 ∧
  decode 0xE8000A00#32 = .outReg 10 ∧ decode 0xE0012C00#32 = .outImm 300#19 ∧
  decode 0x74000000#32 = .bxxLow 4#4 ∧ decode 0x7FFFFFFF#32 = .bxxHigh 15#4 ∧
  decode 0xF0000000#32 = .halt

/-- 30_encoding.md R107: the machine does not tell instructions from data. The data word 7 is `ldr r7, 0`, the word 0 is
`ldr r0, 0`, and whatever word stands at the PC is executed as its bits spell, cleared Memory as `ldr r0, 0`. Derived: the rule
is so from R106 and R60; the step clause is R153's function, whose Bus values are D13 (log 18). -/
def Obligations.DataRunsAsInstructions : Prop :=
  decode 7#32 = .ldr 7 0#20 ∧ decode 0#32 = .ldr 0 0#20 ∧
  ∀ s : State, s.quiet = true → s.pc.toNat < s.mem.size →
    (∀ t, exec (decode (s.mem.get s.pc.toNat)) (s.readyToExecute (s.mem.get s.pc.toNat)) = .next t →
      step s = .next t.afterExecute) ∧
    (s.mem = Memory.cleared s.mem.last → ∃ t, step s = .next t ∧ t.reg 0 = 0#32 ∧ t.pc = s.pc + 1#32)

/-! ### Reset, load, run and the host's other controls -/

/-- 10_state.md R42: the value of every piece of state after reset, whatever the size of Memory. Derived: the values of Memory,
Bus, Output and PHASE are D16; that no grant, no in-phase position and no poll wait is left is the model's (log 6, log 7). -/
def Obligations.ResetValues : Prop :=
  (∀ i : Fin 23, State.reset.slot i = 0#32) ∧ State.reset.ir = none ∧
  (∀ a : Nat, State.reset.mem.get a = 0#32) ∧ State.reset.mem.size = Config.memSize ∧
  State.reset.busAddr = 0#32 ∧ State.reset.busData = 0#32 ∧ State.reset.busCtrl = .idle ∧
  State.reset.outLog = [] ∧ State.reset.outBusy = false ∧ State.reset.paused = false ∧
  State.reset.phase = .fetch ∧ State.reset.status = .idle ∧ State.reset.cancel = none ∧
  State.reset.grants = 0 ∧ State.reset.inPhase = none ∧ State.reset.polling = false

/-- 60_exceptions.md R256: a reset that finds a run active first cancels it, waits until it has stopped, and only then clears
the machine; the state after it is the reset state whatever the run was doing. At any check point of any run: one step stops the
run, the next clears. Derived: several of the values reset leaves are D16, when the host acts is the model's (log 5). -/
def Obligations.ResetStopsThenClears : Prop :=
  ∀ (s : State) (later : List (List HostEvent)), s.atCheckPoint = true → s.agenda = [.reset] :: later →
    ∃ t, step s = .next t ∧ t.status = .cancelled ∧ t.regs = s.regs ∧ t.mem = s.mem ∧ t.outLog = s.outLog ∧
      (later = [] → step t = .next (State.cleared s.mem.last []))

/-- 70_reset_and_hazards.md R280 with no run active: one step of the host's brings every piece of state to its reset value.
Derived: several of the values are D16. -/
def Obligations.ResetClearsIdleMachine : Prop :=
  ∀ s : State, s.status ≠ .running → s.agenda = [[.reset]] → step s = .next (State.cleared s.mem.last [])

/-- 70_reset_and_hazards.md R282: load writes the words from address 0, leaves every other cell, and writes nothing else; a
program longer than Memory is refused whole, and while a run is active the host has no such move (R39). Derived: D19. -/
def Obligations.LoadWritesProgram : Prop :=
  ∀ (s : State) (words : List Word), s.mem.wf = true →
    (s.status ≠ .running → words.length ≤ s.mem.size →
      (∀ k, k < words.length → ((HostEvent.load words).apply s).mem.get k = words.getD k 0#32) ∧
      (∀ k, words.length ≤ k → ((HostEvent.load words).apply s).mem.get k = s.mem.get k) ∧
      (HostEvent.load words).apply s = { s with mem := ((HostEvent.load words).apply s).mem }) ∧
    (s.mem.size < words.length → (HostEvent.load words).apply s = s) ∧
    (s.status = .running → (HostEvent.load words).apply s = s)

/-- 70_reset_and_hazards.md R284: after reset, load(W) and run the machine is in the launch state: every slot 0, IR none,
FLAGS 0, Mem[i] = W[i] for i < n and 0 above, OUT_LOG empty, PC = 0, a run active at its first boundary. Derived as R284 is, from
R280 to R283; the zeros above the program and the empty OUT_LOG are D16. -/
def Obligations.LaunchState : Prop :=
  ∀ words : List Word, words.length ≤ Config.memSize →
    ∃ t, step (State.launch words) = .next t ∧ t.quiet = true ∧
      (∀ i : Fin 23, t.slot i = 0#32) ∧ t.ir = none ∧ t.flags = 0#32 ∧ t.pc = 0#32 ∧ t.outLog = [] ∧
      (∀ k, k < words.length → t.mem.get k = words.getD k 0#32) ∧
      (∀ k, words.length ≤ k → t.mem.get k = 0#32)

/-- 70_reset_and_hazards.md R283, 44_out_halt.md R234: run starts a loop at FETCH from the state as it stands, whatever ended
the last run, and resets nothing; HALT is not a latch. Derived: D17. -/
def Obligations.RunContinuesFromState : Prop :=
  ∀ s : State, s.status ≠ .running → s.agenda = [[.run]] →
    step s = .next { s with
      cancel := some false, status := .running, phase := .fetch, inPhase := none, polling := false, agenda := [] }

/-- 60_exceptions.md R257: a run command that finds a run active first cancels it and waits until it has stopped; the new run
starts from the state the cancelled run left, with a token of its own. At any check point (`pollOk`, part of the invariant, rules
out a poll wait where there is nothing to wait for). Derived: D17. -/
def Obligations.RunReplacesRun : Prop :=
  ∀ s : State, s.atCheckPoint = true → s.pollOk = true → s.agenda = [[.run]] →
    ∃ t, step s = .next t ∧ t.status = .cancelled ∧
      step t = .next { s with
        cancel := some false, status := .running, phase := .fetch, inPhase := none, polling := false, agenda := [] }

/-- 70_reset_and_hazards.md R288: with no run active and no action of the host's, nothing happens; the state a run ended in
stays as it is. Derived from R141 and R288. -/
def Obligations.StoppedMachineStays : Prop :=
  ∀ s : State, s.status ≠ .running → s.agenda = [] → step s = .next s

/-- 40_engine.md R154: when a check finds CANCEL = true the engine performs no further micro-step: STATUS <- Cancelled, and every
register, cell, Bus register, OUT_LOG, OUT_BUSY and PHASE keep their values, at whatever check point the run stands. And every
check point of every run can be that cut: a cancel the host sends there is seen there. Derived: where the waits stand is D14. -/
def Obligations.CancelledRunMutatesNothing : Prop :=
  (∀ s : State, s.atCheckPoint = true → s.pollOk = true → s.cancel = some true → s.agenda = [] →
    step s = .next { s with status := .cancelled, inPhase := none, polling := false }) ∧
  (∀ s : State, s.atCheckPoint = true → s.pollOk = true → s.agenda = [[.cancel]] →
    step s = .next { s with
      status := .cancelled, cancel := some true, inPhase := none, polling := false, agenda := [] })

/-- 60_exceptions.md R254: cancel sets the current run's token and nothing else; with no run active it does nothing; once set the
token stays set through anything the host does short of reset and run, and a new run has its own. -/
def Obligations.CancelTokenRules : Prop :=
  (∀ s : State, s.status = .running → HostEvent.cancel.apply s = { s with cancel := some true }) ∧
  (∀ s : State, s.status ≠ .running → HostEvent.cancel.apply s = s) ∧
  (∀ (s : State) (e : HostEvent), e.needsStop = false → s.cancel = some true → (e.apply s).cancel = some true) ∧
  (∀ s : State, s.cancel = some true → (tick { s with agenda := [] }).cancel = some true) ∧
  (∀ s : State, s.atCheckPoint = true → s.pollOk = true → s.cancel = some true → s.agenda = [] →
    step s = .next { s with status := .cancelled, inPhase := none, polling := false }) ∧
  (∀ s : State, (HostEvent.run.apply s).cancel = some false)

/-- 60_exceptions.md R251, 40_engine.md R142: pause sets PAUSED and nothing else; a paused run with no grant waits in the poll of its
boundary, changing nothing, with STATUS still Running. The order of the boundary's checks: a run that is in the poll when a step
and a cancel reach it consumes the grant and then ends Cancelled; one that only now arrives at the boundary finds the cancel at
the first check, its grant not consumed. Derived: a step is one phase by D18, grants are counted by log 7, and where the actions
of the host fall is log 5. -/
def Obligations.PauseHoldsAtBoundary : Prop :=
  (∀ s : State, HostEvent.pause.apply s = { s with paused := true }) ∧
  (∀ s : State, s.status = .running → s.inPhase = none → s.paused = true → s.grants = 0 → s.cancel ≠ some true →
    s.agenda = [] → step s = .next { s with polling := true }) ∧
  (∀ s : State, s.status = .running → s.inPhase = none → s.paused = true → s.grants = 0 → s.agenda = [[.step, .cancel]] →
    step s = .next { s with
      status := .cancelled, cancel := some true, polling := false, agenda := [],
      grants := if s.polling then 0 else 1 })

/-- 60_exceptions.md R252: resume clears PAUSED and nothing else; at its next poll the engine leaves the boundary and starts the
phase that was due. -/
def Obligations.ResumeStartsDuePhase : Prop :=
  (∀ s : State, HostEvent.resume.apply s = { s with paused := false }) ∧
  (∀ s : State, s.status = .running → s.inPhase = none → s.paused = true → s.grants = 0 → s.cancel ≠ some true →
    s.agenda = [[.resume]] →
    tick s = { s with paused := false, agenda := [], inPhase := some ⟨s.phaseOps, {}⟩, polling := false })

/-- 60_exceptions.md R253, 40_engine.md R156: a step while PAUSED is true gives one grant; with one grant at a time, three steps of a
paused run take one instruction through FETCH, DECODE and EXECUTE, and leave what the uninterrupted instruction leaves, PAUSED
still true; and a step the host sends to a run held at its boundary, in the poll or just arrived, lets one phase run. Derived: that
a step is one phase is D18; that grants are counted and that a step while PAUSED is false does nothing are the model's (log 7);
the Bus values at the boundaries, of R144, R66 and R153, are D13 (log 18). -/
def Obligations.ThreeGrantsAreOneInstruction : Prop :=
  (∀ s : State, s.paused = true → HostEvent.step.apply s = { s with grants := s.grants + 1 }) ∧
  (∀ s : State, s.paused = false → HostEvent.step.apply s = s) ∧
  ∀ s : State, s.quiet = true → s.pc.toNat < s.mem.size →
    let granted (t : State) : State := { t with paused := true, grants := 1 }
    let held (t : State) : State := { t with paused := true, grants := 0 }
    let w := s.mem.get s.pc.toNat
    let fetched : State := { s with
      cir := w, pc := s.pc + 1#32, busAddr := s.pc, busData := w, busCtrl := .idle, phase := .decode }
    step (granted s) = .next (held fetched) ∧
    step (granted fetched) = .next (held (s.readyToExecute w)) ∧
    (∀ u, step s = .next u → step (granted (s.readyToExecute w)) = .next (held u)) ∧
    ∀ inPoll : Bool, step { held s with polling := inPoll, agenda := [[.step]] } = .next (held fetched)

/-- 10_state.md R41, R24: indexed access returns the word in each of the 23 slots; slot 18 reads as the word IR was decoded from,
or 0. Derived: what slot 18 reads as is D12. -/
def Obligations.SlotReadsRegisterFile : Prop :=
  ∀ s : State, (∀ r : Reg, s.slot ⟨r.val, by omega⟩ = s.reg r) ∧
    s.slot 16 = s.pc ∧ s.slot 17 = s.cir ∧ (∀ w, s.ir = some w → s.slot 18 = w) ∧ (s.ir = none → s.slot 18 = 0#32) ∧
    s.slot 19 = s.aluA ∧ s.slot 20 = s.aluB ∧ s.slot 21 = s.aluRes ∧ s.slot 22 = s.flags

/-! ### The step and the engine -/

/-- 40_engine.md R153: at an instruction boundary with nothing of the host's in sight and the PC in Memory, with w = Mem[PC], the
step is: CIR <- w, PC <- PC + 1, IR <- some w, the Bus as the fetch left it, and then exec of decode(w); the next FETCH is due
unless the run has ended. Derived from R153, whose Bus values are D13. -/
def Obligations.StepRunsDecodedInstruction : Prop :=
  ∀ s : State, s.quiet = true → s.pc.toNat < s.mem.size →
    let w := s.mem.get s.pc.toNat
    ∃ t, exec (decode w) { s with
        cir := w, pc := s.pc + 1#32, ir := some w,
        busAddr := s.pc, busData := w, busCtrl := .idle, phase := .execute } = .next t ∧
      step s = .next (if t.status = .running then { t with phase := .fetch } else t)

/-- 40_engine.md R153: when the host does nothing, the micro-steps of the three phases, check points and boundaries included,
compose to one function, with A = PC and w = Mem[A]: CIR, PC, IR and the Bus as the rule lists them, then EXECUTE of decode(w).
The step is that composition in every state it shortcuts, a PC outside Memory included. Derived from R141 to R150 as R153 is. -/
def Obligations.MicroStepsComposeToInstruction : Prop :=
  ∀ s : State, s.quiet = true →
    stepMicro s = stepInstruction s ∧ step s = stepMicro s ∧
    (s.pc.toNat < s.mem.size →
      let w := s.mem.get s.pc.toNat
      ∃ t, exec (decode w) { s with
          cir := w, pc := s.pc + 1#32, ir := some w,
          busAddr := s.pc, busData := w, busCtrl := .idle, phase := .execute } = .next t ∧
        stepMicro s = .next (if t.status = .running then { t with phase := .fetch } else t))

/-- 40_engine.md R144, 60_exceptions.md R244: a FETCH at PC >= MEM_SIZE ends the run with OutOfRange(PC), phase FETCH; PC and CIR
are unchanged, BUS.addr = PC, BUS.ctrl = read, BUS.data unchanged. Derived: the Bus steps and the record are D13, D20. -/
def Obligations.FetchOutOfRange : Prop :=
  ∀ s : State, s.quiet = true → s.mem.size ≤ s.pc.toNat →
    step s = .next { s with
      busAddr := s.pc, busCtrl := .read, status := .faulted ⟨.outOfRange, s.pc, .fetch⟩ }

/-- 10_state.md R26: how each instruction advances PC, from address A: HALT and the non-branches A + 1, B its label, a conditional
branch its label when its flag bit is 1 and A + 1 otherwise; a fault in EXECUTE leaves A + 1, a fault in FETCH leaves A. Derived
as R26 is; that A + 1 wraps is D23. -/
def Obligations.PcAdvance : Prop :=
  ∀ s t : State, s.quiet = true → step s = .next t →
    (s.mem.size ≤ s.pc.toNat → t.pc = s.pc) ∧
    (s.pc.toNat < s.mem.size →
      t.pc = match decode (s.mem.get s.pc.toNat) with
        | .b label => BitVec.ofNat 32 label.toNat
        | .beq label => if s.flags.getLsbD 3 then BitVec.ofNat 32 label.toNat else s.pc + 1#32
        | .bgt label => if s.flags.getLsbD 2 then BitVec.ofNat 32 label.toNat else s.pc + 1#32
        | .blt label => if s.flags.getLsbD 1 then BitVec.ofNat 32 label.toNat else s.pc + 1#32
        | .bne label => if s.flags.getLsbD 0 then BitVec.ofNat 32 label.toNat else s.pc + 1#32
        | _ => s.pc + 1#32)

/-- 10_state.md R28: CIR is written only by FETCH and by reset: no EXECUTE, no DECODE and no other control of the host changes
it, and a completed FETCH leaves in it the word it read. -/
def Obligations.CirHoldsFetchedWord : Prop :=
  (∀ s : State, s.pc.toNat < s.mem.size → ∃ t, fetchPhase s = .complete t ∧ t.cir = s.mem.get s.pc.toNat) ∧
  (∀ s : State, s.mem.size ≤ s.pc.toNat → (fetchPhase s).state.cir = s.cir) ∧
  (∀ s : State, (decodePhase s).state.cir = s.cir ∧ (decodePhase s).state.ir = some s.cir) ∧
  (∀ (i : Instr) (s t : State), exec i s = .next t → t.cir = s.cir) ∧
  (∀ (e : HostEvent) (s : State), e ≠ .reset → (e.apply s).cir = s.cir)

/-! ### Invariants of the whole machine -/

/-- Every step, of whatever kind and whatever the host does, keeps a legal state legal: Memory canonical, FLAGS one of its four
values (10_state.md R32), the in-phase position a position of its phase (R36), IR = some CIR at EXECUTE (40_engine.md R149), a
fault on record one the machine raises (60_exceptions.md R240, R241), the poll wait only of a run that must wait (R142), an active
run with its token. Derived: the canonical form and the position are the model's (log 2, log 6). -/
def Obligations.StepKeepsLegal : Prop :=
  ∀ s t : State, s.legal = true → step s = .next t → t.legal = true

/-- The reset state is legal. -/
def Obligations.ResetIsLegal : Prop := State.reset.legal = true

/-- From every legal state the machine takes a next state: no stop of the model's own is ever reached, and none of the machine's
outcomes is one. Derived from 60_exceptions.md R242, R245 and 40_engine.md R141. -/
def Obligations.LegalStateAlwaysSteps : Prop :=
  ∀ s : State, s.legal = true → ∃ t, step s = .next t

/-- The size of Memory is fixed at creation (70_reset_and_hazards.md R281): no step changes it, reset included. -/
def Obligations.MemorySizeIsFixed : Prop :=
  ∀ s t : State, step s = .next t → t.mem.size = s.mem.size

/-- 44_out_halt.md R232: OUT_LOG only grows, byte by byte at its end, while the host does nothing; an instruction adds at most
one byte. Derived from R230 and R232. -/
def Obligations.OutputOnlyGrows : Prop :=
  ∀ s t : State, s.quiet = true → step s = .next t → t.outLog = s.outLog ∨ ∃ b : Byte, t.outLog = s.outLog ++ [b]

/-- 10_state.md R32: FLAGS takes only the values 0, 24, 21 and 19 in any reachable state; CMP is the only instruction that writes
it; the valid bit is tested by nothing; while FLAGS = 0 no conditional branch is taken, BNE included, and B is. Derived as R32
is, from R31 and R192. -/
def Obligations.FlagsRules : Prop :=
  (flagsLegal State.reset.flags = true ∧ ∀ s t : State, s.legal = true → step s = .next t →
    t.flags = 0#32 ∨ t.flags = 24#32 ∨ t.flags = 21#32 ∨ t.flags = 19#32) ∧
  (∀ (i : Instr) (s t : State), i.family ≠ .compare → exec i s = .next t → t.flags = s.flags) ∧
  (∀ (c : Condition) (f : Word), c.holds (f ^^^ 16#32) = c.holds f) ∧
  (∀ (s : State) (label : BitVec 16), s.flags = 0#32 →
    exec (.beq label) s = .next s ∧ exec (.bgt label) s = .next s ∧ exec (.blt label) s = .next s ∧
    exec (.bne label) s = .next s ∧ exec (.b label) s = .next { s with pc := BitVec.ofNat 32 label.toNat })

/-- 70_reset_and_hazards.md R292: a conditional branch before the first CMP is never taken, BNE included, because FLAGS is 0
after reset; FLAGS survives every instruction but CMP. Derived as R292 is, from R32. -/
def Obligations.BranchBeforeCompareFallsThrough : Prop :=
  State.reset.flags = 0#32 ∧
  (∀ (s : State) (label : BitVec 16) (i : Instr), s.flags = 0#32 → i ∈ [Instr.beq label, .bgt label, .blt label, .bne label] →
    ∃ t, exec i s = .next t ∧ t.pc = s.pc) ∧
  (∀ (i : Instr) (s t : State), (∀ rd rm, i ≠ .cmpReg rd rm) → (∀ rd imm, i ≠ .cmpImm rd imm) →
    exec i s = .next t → t.flags = s.flags)

/-! ### What the instructions do -/

/-- ADD, SUB, AND, ORR, EOR in register form (42_alu.md R183 to R187): the result, ALU_A, ALU_B and ALU_RES, and nothing else, in
every state and for every choice of registers. Derived: ALU_RES is D10. -/
def Obligations.RegisterFormResults : Prop :=
  ∀ (s : State) (rd rn rm : Reg),
    let a := s.reg rn
    let b := s.reg rm
    let done (r : Word) : Host.Outcome State Fault Refusal :=
      .next { s with regs := s.regs.set rd r, aluA := a, aluB := b, aluRes := r }
    exec (.addReg rd rn rm) s = done (BitVec.ofNat 32 (a.toNat + b.toNat)) ∧
    exec (.subReg rd rn rm) s = done (BitVec.ofNat 32 (2 ^ 32 + a.toNat - b.toNat)) ∧
    exec (.andReg rd rn rm) s = done (a &&& b) ∧
    exec (.orrReg rd rn rm) s = done (a ||| b) ∧
    exec (.eorReg rd rn rm) s = done (a ^^^ b)

/-- The same in immediate form: B is the immediate, zero-extended (42_alu.md R182 to R187). Derived: D3, D10. -/
def Obligations.ImmediateFormResults : Prop :=
  ∀ (s : State) (rd rn : Reg) (imm : BitVec 19),
    let a := s.reg rn
    let b : Word := BitVec.ofNat 32 imm.toNat
    let done (r : Word) : Host.Outcome State Fault Refusal :=
      .next { s with regs := s.regs.set rd r, aluA := a, aluB := b, aluRes := r }
    exec (.addImm rd rn imm) s = done (BitVec.ofNat 32 (a.toNat + imm.toNat)) ∧
    exec (.subImm rd rn imm) s = done (BitVec.ofNat 32 (2 ^ 32 + a.toNat - imm.toNat)) ∧
    exec (.andImm rd rn imm) s = done (a &&& b) ∧
    exec (.orrImm rd rn imm) s = done (a ||| b) ∧
    exec (.eorImm rd rn imm) s = done (a ^^^ b)

/-- LSL and LSR in both forms (42_alu.md R188, R189, R194): (a * 2^b) mod 2^32 and floor(a / 2^b) for every word b, which is 0
when b >= 32. Derived: the case b >= 32 is D7. -/
def Obligations.ShiftResults : Prop :=
  ∀ (s : State) (rd rn rm : Reg) (imm : BitVec 19),
    let a := s.reg rn
    let done (b r : Word) : Host.Outcome State Fault Refusal :=
      .next { s with regs := s.regs.set rd r, aluA := a, aluB := b, aluRes := r }
    let immWord : Word := BitVec.ofNat 32 imm.toNat
    exec (.lslReg rd rn rm) s = done (s.reg rm) (BitVec.ofNat 32 (a.toNat * 2 ^ (s.reg rm).toNat)) ∧
    exec (.lslImm rd rn imm) s = done immWord (BitVec.ofNat 32 (a.toNat * 2 ^ imm.toNat)) ∧
    exec (.lsrReg rd rn rm) s = done (s.reg rm) (BitVec.ofNat 32 (a.toNat / 2 ^ (s.reg rm).toNat)) ∧
    exec (.lsrImm rd rn imm) s = done immWord (BitVec.ofNat 32 (a.toNat / 2 ^ imm.toNat))

/-- MOV and MVN in both forms (42_alu.md R190, R191): B, and 2^32 - 1 - B; ALU_A shows 0. Derived: the 0 is D11, ALU_RES D10. -/
def Obligations.MoveResults : Prop :=
  ∀ (s : State) (rd rm : Reg) (imm : BitVec 19),
    let done (b r : Word) : Host.Outcome State Fault Refusal :=
      .next { s with regs := s.regs.set rd r, aluA := 0#32, aluB := b, aluRes := r }
    let immWord : Word := BitVec.ofNat 32 imm.toNat
    exec (.movReg rd rm) s = done (s.reg rm) (s.reg rm) ∧
    exec (.movImm rd imm) s = done immWord immWord ∧
    exec (.mvnReg rd rm) s = done (s.reg rm) (BitVec.ofNat 32 (2 ^ 32 - 1 - (s.reg rm).toNat)) ∧
    exec (.mvnImm rd imm) s = done immWord (BitVec.ofNat 32 (2 ^ 32 - 1 - imm.toNat))

/-- CMP in both forms (42_alu.md R192): FLAGS <- 24 when x[Rd] = B, 21 when x[Rd] > B, 19 when x[Rd] < B, unsigned; ALU_RES too;
no register of the file is written. Derived: ALU_RES is D10. -/
def Obligations.CompareResults : Prop :=
  ∀ (s : State) (rd rm : Reg) (imm : BitVec 19),
    let flagWord (a b : Nat) : Word := if a = b then 24#32 else if b < a then 21#32 else 19#32
    let done (b : Word) (f : Word) : Host.Outcome State Fault Refusal :=
      .next { s with flags := f, aluA := s.reg rd, aluB := b, aluRes := f }
    exec (.cmpReg rd rm) s = done (s.reg rm) (flagWord (s.reg rd).toNat (s.reg rm).toNat) ∧
    exec (.cmpImm rd imm) s = done (BitVec.ofNat 32 imm.toNat) (flagWord (s.reg rd).toNat imm.toNat)

/-- 10_state.md R31: after CMP of a against b bit 4 is 1, EQ is a = b, GT is a > b, LT is a < b, unsigned, NE the complement of EQ;
exactly one of EQ, GT and LT is set; bits 31 to 5 are 0, as they are in every legal state. Derived: b is operand B of the CMP
(42_alu.md R182, R192), and the immediate form's is unsigned by D3 (log 11). -/
def Obligations.FlagBitsAfterCompare : Prop :=
  (∀ (s : State) (i : Instr) (rd : Reg) (b : Word),
    ((∃ rm, i = .cmpReg rd rm ∧ b = s.reg rm) ∨ (∃ imm : BitVec 19, i = .cmpImm rd imm ∧ b = BitVec.ofNat 32 imm.toNat)) →
    ∃ t, exec i s = .next t ∧
      t.flags.getLsbD 4 = true ∧
      (t.flags.getLsbD 3 = true ↔ s.reg rd = b) ∧
      (t.flags.getLsbD 2 = true ↔ b.toNat < (s.reg rd).toNat) ∧
      (t.flags.getLsbD 1 = true ↔ (s.reg rd).toNat < b.toNat) ∧
      (t.flags.getLsbD 0 = true ↔ s.reg rd ≠ b) ∧
      (t.flags.getLsbD 3 = true ∨ t.flags.getLsbD 2 = true ∨ t.flags.getLsbD 1 = true) ∧
      ¬(t.flags.getLsbD 3 = true ∧ t.flags.getLsbD 2 = true) ∧
      ¬(t.flags.getLsbD 3 = true ∧ t.flags.getLsbD 1 = true) ∧
      ¬(t.flags.getLsbD 2 = true ∧ t.flags.getLsbD 1 = true) ∧
      t.flags.toNat < 2 ^ 5) ∧
  (∀ s : State, s.legal = true → s.flags.toNat < 2 ^ 5)

/-- 42_alu.md R195: source and destination may be the same register; the operands are read before the result is written. Doubling,
decrementing, shifting a register by its own old value, and moving a register to itself. Derived as R195 is, from R181; a shift
by 32 or more is D7. -/
def Obligations.SameRegisterOperands : Prop :=
  ∀ (s : State) (r : Reg),
    (∃ t, exec (.addReg r r r) s = .next t ∧ (t.reg r).toNat = 2 * (s.reg r).toNat % 2 ^ 32) ∧
    (∃ t, exec (.subImm r r 1#19) s = .next t ∧ (t.reg r).toNat = ((s.reg r).toNat + (2 ^ 32 - 1)) % 2 ^ 32) ∧
    (∃ t, exec (.lslReg r r r) s = .next t ∧
      (t.reg r).toNat = (s.reg r).toNat * 2 ^ (s.reg r).toNat % 2 ^ 32) ∧
    (∃ t, exec (.movReg r r) s = .next t ∧ t.regs = s.regs)

/-- B, BEQ, BGT, BLT, BNE (43_branch.md R212 to R217): PC <- label, zero-extended, when the predicate holds of FLAGS, and nothing
else; a branch not taken changes nothing. Derived: the position of the label in the word is D2. -/
def Obligations.BranchResults : Prop :=
  ∀ (s : State) (label : BitVec 16),
    let jump (taken : Bool) : Host.Outcome State Fault Refusal :=
      .next (if taken then { s with pc := BitVec.ofNat 32 label.toNat } else s)
    exec (.b label) s = jump true ∧
    exec (.beq label) s = jump (s.flags.getLsbD 3) ∧
    exec (.bgt label) s = jump (s.flags.getLsbD 2) ∧
    exec (.blt label) s = jump (s.flags.getLsbD 1) ∧
    exec (.bne label) s = jump (s.flags.getLsbD 0)

/-- 43_branch.md R211: a branch checks nothing against MEM_SIZE; one taken to a target at or above it completes, and the FETCH
that follows raises OutOfRange(target). Derived: the label's position is D2, the record D20, the Bus D13. -/
def Obligations.BranchTargetIsCheckedByFetch : Prop :=
  (∀ (s : State) (label : BitVec 16), ∃ t, exec (.b label) s = .next t ∧ t.pc.toNat = label.toNat ∧ t.status = s.status) ∧
  (∀ (s t : State) (i : Instr), s.quiet = true → i.family = .branch → exec i s = .next t → t.mem.size ≤ t.pc.toNat →
    t.status = .running ∧
    ∃ u, step t = .next u ∧ u.status = .faulted ⟨.outOfRange, t.pc, .fetch⟩ ∧ u.pc = t.pc)

/-- LDR inside Memory (41_load_store.md R171): x[Rd] <- Mem[ea], the Bus registers as the transaction leaves them, nothing else.
Derived: the Bus steps are D13. -/
def Obligations.LoadCompletes : Prop :=
  ∀ (s : State) (rd : Reg) (ea : BitVec 20), ea.toNat < s.mem.size →
    exec (.ldr rd ea) s = .next { s with
      regs := s.regs.set rd (s.mem.get ea.toNat),
      busAddr := BitVec.ofNat 32 ea.toNat, busData := s.mem.get ea.toNat, busCtrl := .idle }

/-- STR inside Memory (41_load_store.md R172): Mem[ea] <- x[Rd], and reading Memory back gives x[Rd] at ea and what it gave before
elsewhere; the Bus registers as the transaction leaves them; nothing else. Derived: the Bus steps are D13. -/
def Obligations.StoreCompletes : Prop :=
  ∀ (s : State) (rd : Reg) (ea : BitVec 20), s.mem.wf = true → ea.toNat < s.mem.size →
    ∃ m : Memory, exec (.str rd ea) s = .next { s with
        mem := m, busAddr := BitVec.ofNat 32 ea.toNat, busData := s.reg rd, busCtrl := .idle } ∧
      m.wf = true ∧ m.size = s.mem.size ∧ m.get ea.toNat = s.reg rd ∧
      ∀ a : Nat, a ≠ ea.toNat → m.get a = s.mem.get a

/-- LDR and STR outside Memory (60_exceptions.md R240, R244): the run ends Faulted(OutOfRange, ea, EXECUTE); no register, no cell
and no output changes; the Bus shows the access. Derived: the Bus steps and the record are D13, D20. -/
def Obligations.DataAccessOutOfRange : Prop :=
  ∀ (s : State) (rd : Reg) (ea : BitVec 20), s.mem.size ≤ ea.toNat →
    let f : FaultRecord := ⟨.outOfRange, BitVec.ofNat 32 ea.toNat, .execute⟩
    exec (.ldr rd ea) s = .next { s with
      busAddr := BitVec.ofNat 32 ea.toNat, busCtrl := .read, status := .faulted f } ∧
    exec (.str rd ea) s = .next { s with
      busAddr := BitVec.ofNat 32 ea.toNat, busData := s.reg rd, busCtrl := .write, status := .faulted f }

/-- 20_memory.md R64: an access is refused exactly when a >= MEM_SIZE, with the fault OutOfRange; a failing read writes no
register, a failing write changes no cell, and there is no other check: for LDR, STR and FETCH. -/
def Obligations.BoundsCheck : Prop :=
  (∀ (s : State) (rd : Reg) (ea : BitVec 20), s.status = .running → ∃ t, exec (.ldr rd ea) s = .next t ∧
    (t.status = .running ↔ ea.toNat < s.mem.size) ∧ t.mem = s.mem ∧
    (s.mem.size ≤ ea.toNat → t.regs = s.regs ∧ ∃ f, t.status = .faulted f ∧ f.kind = .outOfRange)) ∧
  (∀ (s : State) (rd : Reg) (ea : BitVec 20), s.status = .running → ∃ t, exec (.str rd ea) s = .next t ∧
    (t.status = .running ↔ ea.toNat < s.mem.size) ∧ t.regs = s.regs ∧
    (s.mem.size ≤ ea.toNat → t.mem = s.mem ∧ ∃ f, t.status = .faulted f ∧ f.kind = .outOfRange)) ∧
  (∀ s : State, s.status = .running →
    ((∃ t, fetchPhase s = .complete t) ↔ s.pc.toNat < s.mem.size) ∧
    (s.mem.size ≤ s.pc.toNat → ∃ t, fetchPhase s = .ended t ∧ t.regs = s.regs ∧ t.pc = s.pc ∧ t.cir = s.cir ∧
      t.mem = s.mem ∧ ∃ f, t.status = .faulted f ∧ f.kind = .outOfRange))

/-- 20_memory.md R70: a load returns the value of the most recent store to the same address, and a store to another address does
not change what it returns. Derived from R70. -/
def Obligations.LoadSeesLatestStore : Prop :=
  ∀ (s : State) (rs rd : Reg) (ea eb : BitVec 20), s.mem.wf = true → ea.toNat < s.mem.size → eb.toNat < s.mem.size →
    ∃ t u v, exec (.str rs ea) s = .next t ∧ exec (.ldr rd ea) t = .next u ∧ u.reg rd = s.reg rs ∧
      exec (.ldr rd eb) t = .next v ∧ (eb ≠ ea → v.reg rd = s.mem.get eb.toNat)

/-- 20_memory.md R73: a STR to address a is seen by the next FETCH from address a, with no fence and no delay, even when that is
the very next phase; the instruction in flight is not affected by its own store, its word being in CIR and IR already. Derived as
R73 is, from R70 and R144. -/
def Obligations.FetchSeesStore : Prop :=
  ∀ (s : State) (rd : Reg) (ea : BitVec 20), s.mem.wf = true → ea.toNat < s.mem.size →
    ∃ t, exec (.str rd ea) s = .next t ∧ t.cir = s.cir ∧ t.ir = s.ir ∧
      (s.pc.toNat = ea.toNat → ∃ u, fetchPhase t = .complete u ∧ u.cir = s.reg rd)

/-- OUT in both forms (44_out_halt.md R230, R231): OUT_LOG gains the byte v mod 256, OUT_BUSY ends false, nothing else changes.
Derived: the narrowing is D9. -/
def Obligations.OutputResults : Prop :=
  ∀ (s : State) (rm : Reg) (imm : BitVec 19),
    exec (.outReg rm) s = .next { s with
      outLog := s.outLog ++ [BitVec.ofNat 8 ((s.reg rm).toNat % 256)], outBusy := false } ∧
    exec (.outImm imm) s = .next { s with
      outLog := s.outLog ++ [BitVec.ofNat 8 (imm.toNat % 256)], outBusy := false }

/-- HALT (44_out_halt.md R233): STATUS <- Halted, PHASE <- FETCH, nothing else, and that is the good end of a run; it is not an
error (60_exceptions.md R246). Derived from R233, whose wait is D14. -/
def Obligations.HaltEndsRun : Prop :=
  ∀ s : State, ∃ t, exec .halt s = .next t ∧ t = { s with status := .halted, phase := .fetch } ∧ t.goodEnd = true

/-- B?? in both rows (43_branch.md R218, 60_exceptions.md R241): IllegalInstruction(CIR) is taken in EXECUTE and nothing else
changes; in a step PC is the word's address plus 1 and CIR the word. Derived: D8, D20. -/
def Obligations.UnassignedBranchFaults : Prop :=
  (∀ (s : State) (sub : BitVec 4),
    let faulted : Host.Outcome State Fault Refusal :=
      .next { s with status := .faulted ⟨.illegalInstruction, s.cir, .execute⟩ }
    exec (.bxxLow sub) s = faulted ∧ exec (.bxxHigh sub) s = faulted) ∧
  (∀ s : State, s.quiet = true → s.pc.toNat < s.mem.size → (decodeFields (s.mem.get s.pc.toNat)).mnemonic = .bxx →
    let w := s.mem.get s.pc.toNat
    step s = .next { s.readyToExecute w with status := .faulted ⟨.illegalInstruction, w, .execute⟩ })

/-! ### Frames -/

/-- What EXECUTE leaves of the register file: every register but the instruction's destination, and every register where there is
none (10_state.md R21, R24). Derived from R171, R172, R181, R212, R230 and R233. -/
def Obligations.RegisterFrame : Prop :=
  ∀ (i : Instr) (s t : State), exec i s = .next t → ∀ r : Reg, i.destination ≠ some r → t.reg r = s.reg r

/-- What EXECUTE leaves of the special slots, the Bus, the Output and the control state (10_state.md R24, R30, R32, R34, R35,
R36): PC for the branches, FLAGS for CMP, the ALU slots for the ALU instructions, the Bus for LDR and STR, the Output for OUT;
CIR, IR and what is the host's for none. Derived from R171, R172, R181, R212, R218, R230 and R233. -/
def Obligations.SpecialStateFrame : Prop :=
  ∀ (i : Instr) (s t : State), exec i s = .next t →
    (i.family ≠ .branch → t.pc = s.pc) ∧
    (i.family ≠ .compare → t.flags = s.flags) ∧
    (i.family ≠ .alu → i.family ≠ .compare → t.aluA = s.aluA ∧ t.aluB = s.aluB ∧ t.aluRes = s.aluRes) ∧
    (i.family ≠ .load → i.family ≠ .store → t.busAddr = s.busAddr ∧ t.busData = s.busData ∧ t.busCtrl = s.busCtrl) ∧
    (i.family ≠ .output → t.outLog = s.outLog ∧ t.outBusy = s.outBusy) ∧
    (i.family ≠ .stop → t.phase = s.phase) ∧
    (i.family ≠ .stop → i.family ≠ .unassigned → i.family ≠ .load → i.family ≠ .store → t.status = s.status) ∧
    t.cir = s.cir ∧ t.ir = s.ir ∧ t.paused = s.paused ∧ t.grants = s.grants ∧ t.cancel = s.cancel ∧
    t.inPhase = s.inPhase ∧ t.polling = s.polling ∧ t.agenda = s.agenda

/-- What EXECUTE leaves of Memory: STR every cell but the one at its address field, every other instruction every cell
(41_load_store.md R172, R173). Derived from R172 and R173. -/
def Obligations.MemoryFrame : Prop :=
  ∀ (i : Instr) (s t : State), s.mem.wf = true → exec i s = .next t →
    t.mem.size = s.mem.size ∧
    (∀ (rd : Reg) (ea : BitVec 20), i = .str rd ea → ∀ a : Nat, a ≠ ea.toNat → t.mem.get a = s.mem.get a) ∧
    (i.family ≠ .store → ∀ a : Nat, t.mem.get a = s.mem.get a)

/-! ### Observers -/

/-- 60_exceptions.md R263. First, of a micro-step after which the phase goes on and of every `tick`, the host's turn included: a slot,
Bus register or OUT_BUSY notified holds the value notified, and one not notified is unchanged. Second, of every `tick`: a phase
notified is the phase the next state is in, and a phase that changes is notified. Third, in an active run: the micro-step that
completes its phase notifies the phase that is due then, one after which the phase goes on notifies none, and a check that finds
the token set lets nothing be notified. Derived: that IR counts as slot 18 is D12, that ALU_RES is written D10, what reset writes
D16, the form of a notification the model's (log 23). -/
def Obligations.NoticesTellEveryWrite : Prop :=
  (∀ (ph : Phase) (s s' : State) (h h' : Held) (op : Micro), op.run ph s h = .goes s' h' →
    noticesTell (op.notices s h) s s') ∧
  (∀ s : State, noticesTell s.notices s (tick s)) ∧
  (∀ (s : State) (p : Phase), .phase p ∈ s.notices → (tick s).phase = p) ∧
  (∀ s : State, (tick s).phase ≠ s.phase → .phase (tick s).phase ∈ s.notices) ∧
  (∀ s : State, s.status = .running → s.inPhase ≠ none → (tick s).status = .running → (tick s).inPhase = none →
    .phase (tick s).phase ∈ s.notices) ∧
  (∀ s : State, s.status = .running → (tick s).status = .running → (tick s).inPhase ≠ none →
    ∀ p : Phase, .phase p ∉ s.notices) ∧
  (∀ s : State, s.status = .running → (tick s).status = .cancelled → s.notices = [])

/-- 60_exceptions.md R262: at the start of FETCH the observers are told the PC before its increment, and the micro-step that tells
them changes no state but the engine's place in its list. Derived: which PC is reported is D24. -/
def Obligations.FetchNotificationTellsPc : Prop :=
  ∀ s : State, s.quiet = true →
    (tick s).notices = [.fetchAt s.pc] ∧
    ∃ p : Progress, tick (tick s) = { s with inPhase := some p } ∧ .notifyFetch :: p.todo = fetchOps

/-! ### The assembler -/

/-- 30_encoding.md R109, R112 to R125 and R218, of every text that assembles. A label is bound to the number of lines before it that
are no labels. The items are, in order, what those lines parse to, each with its line's number; the words are the items' words, and
the line map says so. A data word is the integer of its `#` line. An instruction has the mnemonic and the operands its line
writes, one by one; its word decodes to it; it is not `B??`; and every register it names is at most r10. Derived: the language is
D22 and log 24, the bound on registers D5, the unsigned immediate D3 (log 11), the places of Rm and the label D1 and D2 (log 10). -/
def Obligations.AssembledWordsDecode : Prop :=
  ∀ (text : List Char) (out : Asm.Assembly), Asm.assemble text = .ok out →
    ∃ (labels : Asm.Labels) (items : List (Asm.Item × Nat)),
      Asm.bindLabels (Asm.sourceLines text) 0 [] = .ok labels ∧ Asm.assembleItems text = .ok items ∧
      out.machineWords = items.map (fun p => p.1.word) ∧
      (∀ k, k < items.length → out.sourceLineOf[k]? = (items[k]?).map (fun p => (k, p.2))) ∧
      let emits (l : Asm.SourceLine) : Bool := (Asm.labelOf l.text).isNone
      let lines := (Asm.sourceLines text).filter emits
      (∀ (before after : List Asm.SourceLine) (l : Asm.SourceLine) (name : List Char),
        Asm.sourceLines text = before ++ l :: after → Asm.labelOf l.text = some name →
        Asm.lookup labels name = some (before.filter emits).length) ∧
      items.length = lines.length ∧
      ∀ (k : Nat) (item : Asm.Item) (n : Nat), items[k]? = some (item, n) →
        ∃ l : Asm.SourceLine, lines[k]? = some l ∧ n = l.number ∧ Asm.parseLine labels l.text = .ok item ∧
          (∀ w : Word, item = .data w → Asm.immediateToken l.text = some w.toNat) ∧
          ∀ i : Instr, item = .code i →
            (Asm.shape l.text).mnemonic = i.mnemonic.text ∧
            Asm.operandsSpelt labels (Asm.shape l.text).operands i.operands = true ∧
            decode (encode i) = i ∧ i.mnemonic ≠ .bxx ∧ ∀ r : Reg, .reg r ∈ i.operands → r.val ≤ 10

/-- The source's three assembler examples (95_test_vectors.md S5, S6, S7) and this spec's own text (V13). Derived: D1, D2, D5 and
D22. -/
def Obligations.AssemblerExamples : Prop :=
  Asm.assemble "add r0, r1, r2\nhalt".toList = .ok ⟨[0x28000210#32, 0xF0000000#32], [(0, 1), (1, 2)]⟩ ∧
  Asm.assemble "b loop\nloop:\nhalt".toList = .ok ⟨[0x60000100#32, 0xF0000000#32], [(0, 1), (1, 3)]⟩ ∧
  Asm.assemble "add r20, r1, r2\nhalt".toList = .error ⟨1, .registerOutOfRange⟩ ∧
  Asm.assemble "// count up\nMOV R0, #0\n\nloop:\nadd r0, r0, #1      // step\nb loop\nend:\nhalt\n#42".toList =
    .ok ⟨[0x40000000#32, 0x20000100#32, 0x60000100#32, 0xF0000000#32, 0x0000002A#32],
      [(0, 2), (1, 5), (2, 6), (3, 8), (4, 9)]⟩
end

