-- ==== Sys2Proof/Laws/Config.lean ====
section
/-! SUPPORT. The timing parameters are positive, and so is every wait. -/

namespace Sys2Proof

/-- The number of a `PositiveRat` is positive. -/
theorem PositiveRat.value_pos (q : PositiveRat) : 0 < q.value := by
  unfold PositiveRat.value
  positivity

/-- Every wait has a positive length (70_reset_and_hazards.md R300, R302). -/
theorem WaitKind.length_pos (k : WaitKind) : 0 < k.length := by
  cases k
  · exact div_pos (PositiveRat.value_pos _) (PositiveRat.value_pos _)
  · exact div_pos (PositiveRat.value_pos _) (PositiveRat.value_pos _)
  · exact PositiveRat.value_pos _
  · norm_num [WaitKind.length, Config.pausePoll]

end Sys2Proof
end

