-- ==== Sys2Proof/Laws/Decode.lean ====
section
/-! SUPPORT. The fields of a word and the value of an encoded word as arithmetic, and the fields of encoded words. -/

namespace Sys2Proof

/-- The opcode as a number (30_encoding.md R91). -/
theorem opcodeOf_toNat (w : Word) : (opcodeOf w).toNat = w.toNat / 268435456 := by
  have h := w.isLt
  simp only [opcodeOf, BitVec.extractLsb'_toNat, Nat.shiftRight_eq_div_pow, Nat.reducePow] at *
  omega

/-- The subcode as a number (R91). -/
theorem subcodeOf_toNat (w : Word) : (subcodeOf w).toNat = w.toNat / 16777216 % 16 := by
  have h := w.isLt
  simp only [subcodeOf, BitVec.extractLsb'_toNat, Nat.shiftRight_eq_div_pow, Nat.reducePow] at *

/-- The register-operand flag as a number (R91). -/
theorem flagOf_iff (w : Word) : flagOf w = true ↔ w.toNat / 134217728 % 2 = 1 := by
  simp [flagOf, BitVec.getLsbD, Nat.testBit_eq_decide_div_mod_eq]

/-- The immediate as a number (R95). -/
theorem immediateOf_toNat (w : Word) : (immediateOf w).toNat = w.toNat / 256 % 524288 := by
  simp only [immediateOf, BitVec.extractLsb'_toNat, Nat.shiftRight_eq_div_pow, Nat.reducePow]

/-- The address as a number (R93). -/
theorem memoryAddressOf_toNat (w : Word) : (memoryAddressOf w).toNat = w.toNat / 256 % 1048576 := by
  simp only [memoryAddressOf, BitVec.extractLsb'_toNat, Nat.shiftRight_eq_div_pow, Nat.reducePow]

/-- The branch label as a number (R94). -/
theorem branchLabelOf_toNat (w : Word) : (branchLabelOf w).toNat = w.toNat / 256 % 65536 := by
  simp only [branchLabelOf, BitVec.extractLsb'_toNat, Nat.shiftRight_eq_div_pow, Nat.reducePow]

/-- Rm as a number (R92). -/
theorem rmOf_val (w : Word) : (rmOf w).val = w.toNat / 256 % 16 := by
  simp [rmOf, Nat.shiftRight_eq_div_pow]

/-- Rn as a number (R92). -/
theorem rnOf_val (w : Word) : (rnOf w).val = w.toNat / 16 % 16 := by
  simp [rnOf, Nat.shiftRight_eq_div_pow]

/-- Rd as a number (R92). -/
theorem rdOf_val (w : Word) : (rdOf w).val = w.toNat % 16 := by
  simp [rdOf]

/-- Fields that fit do not overlap: the packed word is their sum (30_encoding.md R108). -/
theorem packWord_toNat {op op2 rn rd : Nat} (ho : op < 16) (h2 : op2 < 268435456) (h8 : op2 % 256 = 0) (hn : rn < 16)
    (hd : rd < 16) : (packWord op op2 rn rd).toNat = op * 268435456 + op2 + rn * 16 + rd := by
  simp only [packWord, BitVec.toNat_ofNat, Nat.reducePow]
  omega

/-- The opcode of a packed word. -/
theorem opcodeOf_packWord {op op2 rn rd : Nat} (ho : op < 16) (h2 : op2 < 268435456) (h8 : op2 % 256 = 0) (hn : rn < 16)
    (hd : rd < 16) : (opcodeOf (packWord op op2 rn rd)).toNat = op := by
  rw [opcodeOf_toNat, packWord_toNat ho h2 h8 hn hd]
  omega

/-- The subcode of a packed word: the top four bits of the op2 contribution. -/
theorem subcodeOf_packWord {op op2 rn rd : Nat} (ho : op < 16) (h2 : op2 < 268435456) (h8 : op2 % 256 = 0) (hn : rn < 16)
    (hd : rd < 16) : (subcodeOf (packWord op op2 rn rd)).toNat = op2 / 16777216 := by
  rw [subcodeOf_toNat, packWord_toNat ho h2 h8 hn hd]
  omega

/-- The fields of a MEM word are its operands (30_encoding.md R97). -/
theorem encodeMem_fields {op : Nat} (ho : op < 16) (rd : Reg) (ea : BitVec 20) :
    rdOf (encodeMem op rd ea) = rd ∧ memoryAddressOf (encodeMem op rd ea) = ea := by
  have h := packWord_toNat (op := op) (op2 := ea.toNat * 256) (rn := 0) (rd := rd.val) ho (by omega) (by omega)
    (by decide) rd.isLt
  have e : encodeMem op rd ea = packWord op (ea.toNat * 256) 0 rd.val := rfl
  rw [← e] at h
  have := rd.isLt
  refine ⟨Fin.ext ?_, BitVec.eq_of_toNat_eq ?_⟩
  · rw [rdOf_val, h]; omega
  · rw [memoryAddressOf_toNat, h]; omega

/-- The fields of a register form are its operands (R98 to R100). -/
theorem encodeRegForm_fields {op : Nat} (ho : op < 16) (rd rn rm : Reg) :
    rdOf (encodeRegForm op rd rn rm) = rd ∧ rnOf (encodeRegForm op rd rn rm) = rn ∧
      rmOf (encodeRegForm op rd rn rm) = rm ∧ flagOf (encodeRegForm op rd rn rm) = true := by
  have h := packWord_toNat (op := op) (op2 := 134217728 + rm.val * 256) (rn := rn.val) (rd := rd.val) ho
    (by omega) (by omega) rn.isLt rd.isLt
  have e : encodeRegForm op rd rn rm = packWord op (134217728 + rm.val * 256) rn.val rd.val := rfl
  rw [← e] at h
  have := rd.isLt; have := rn.isLt; have := rm.isLt
  refine ⟨Fin.ext ?_, Fin.ext ?_, Fin.ext ?_, ?_⟩
  · rw [rdOf_val, h]; omega
  · rw [rnOf_val, h]; omega
  · rw [rmOf_val, h]; omega
  · rw [flagOf_iff, h]; omega

/-- The fields of an immediate form are its operands (R98 to R100). -/
theorem encodeImmForm_fields {op : Nat} (ho : op < 16) (rd rn : Reg) (imm : BitVec 19) :
    rdOf (encodeImmForm op rd rn imm) = rd ∧ rnOf (encodeImmForm op rd rn imm) = rn ∧
      immediateOf (encodeImmForm op rd rn imm) = imm ∧ flagOf (encodeImmForm op rd rn imm) = false := by
  have h := packWord_toNat (op := op) (op2 := imm.toNat * 256) (rn := rn.val) (rd := rd.val) ho
    (by omega) (by omega) rn.isLt rd.isLt
  have e : encodeImmForm op rd rn imm = packWord op (imm.toNat * 256) rn.val rd.val := rfl
  rw [← e] at h
  have := rd.isLt; have := rn.isLt
  refine ⟨Fin.ext ?_, Fin.ext ?_, BitVec.eq_of_toNat_eq ?_, ?_⟩
  · rw [rdOf_val, h]; omega
  · rw [rnOf_val, h]; omega
  · rw [immediateOf_toNat, h]; omega
  · rw [Bool.eq_false_iff, ne_eq, flagOf_iff, h]; omega

/-- The fields of a branch word are its operands (R101, R102). -/
theorem encodeBranch_fields {op sub : Nat} (ho : op < 16) (hs : sub < 16) (l : BitVec 16) :
    branchLabelOf (encodeBranch op sub l) = l ∧ (subcodeOf (encodeBranch op sub l)).toNat = sub := by
  have h := packWord_toNat (op := op) (op2 := sub * 16777216 + l.toNat * 256) (rn := 0) (rd := 0) ho
    (by omega) (by omega) (by decide) (by decide)
  have e : encodeBranch op sub l = packWord op (sub * 16777216 + l.toNat * 256) 0 0 := rfl
  rw [← e] at h
  refine ⟨BitVec.eq_of_toNat_eq ?_, ?_⟩
  · rw [branchLabelOf_toNat, h]; omega
  · rw [subcodeOf_toNat, h]; omega

end Sys2Proof
end

