-- ==== Sys2Proof/Laws/Memory.lean ====
section
/-! SUPPORT. The laws of Memory: the canonical form is kept by every operation, a read after a write to the same address gives
the word written, and a write leaves every other address alone (20_memory.md R63, R70). -/

namespace Sys2Proof.Machine

/-- Rising from a higher bound is rising from a lower one. -/
theorem risingFrom_mono {lo lo' : Nat} (h : lo ≤ lo') : ∀ {cs : List Cell}, risingFrom lo' cs = true → risingFrom lo cs = true
  | [], _ => rfl
  | (k, v) :: rest, hr => by
    simp only [risingFrom, Bool.and_eq_true, decide_eq_true_eq] at hr ⊢
    exact ⟨⟨by omega, hr.1.2⟩, hr.2⟩

/-- Below the first possible address every cell reads 0. -/
theorem readCells_below {cs : List Cell} {lo a : Nat} (hr : risingFrom lo cs = true) (h : a < lo) : readCells cs a = 0#32 := by
  cases cs with
  | nil => rfl
  | cons c rest =>
    simp only [risingFrom, Bool.and_eq_true, decide_eq_true_eq] at hr
    simp [readCells, show a < c.1 by omega]

/-- Storing keeps the cells rising and free of zeros. -/
theorem writeCells_rising {a : Nat} {v : Word} : ∀ {cs : List Cell} {lo : Nat}, risingFrom lo cs = true → lo ≤ a →
    risingFrom lo (writeCells cs a v) = true
  | [], lo, _, h => by
    by_cases hv : v = 0#32 <;> simp [writeCells, risingFrom, hv, h]
  | (k, u) :: rest, lo, hr, h => by
    have hr' := hr
    simp only [risingFrom, Bool.and_eq_true, decide_eq_true_eq] at hr'
    obtain ⟨⟨hk, hu⟩, hrest⟩ := hr'
    unfold writeCells
    split
    · split
      · exact hr
      · rename_i hlt hv
        simp [risingFrom, hv, h, hu, hrest, show a + 1 ≤ k by omega]
    · split
      · rename_i _ he
        split
        · exact risingFrom_mono (by omega) hrest
        · rename_i hv
          simp [risingFrom, hv, hk, he, hrest]
      · rename_i h1 h2
        simp [risingFrom, hk, hu, writeCells_rising hrest (by omega : k + 1 ≤ a)]

/-- A read after a write to the same address gives the word written. -/
theorem readCells_writeCells_same {a : Nat} {v : Word} : ∀ {cs : List Cell} {lo : Nat}, risingFrom lo cs = true →
    readCells (writeCells cs a v) a = v
  | [], _, _ => by by_cases hv : v = 0#32 <;> simp [writeCells, readCells, hv]
  | (k, u) :: rest, lo, hr => by
    simp only [risingFrom, Bool.and_eq_true, decide_eq_true_eq] at hr
    unfold writeCells
    split
    · rename_i hlt
      split <;> simp [readCells, *]
    · split
      · rename_i _ he
        split
        · rename_i hv
          rw [readCells_below hr.2 (by omega), hv]
        · simp [readCells]
      · rename_i h1 h2
        simp [readCells, h1, h2, readCells_writeCells_same hr.2]

/-- A write leaves every other address alone. -/
theorem readCells_writeCells_other {a b : Nat} {v : Word} (hab : b ≠ a) : ∀ {cs : List Cell} {lo : Nat},
    risingFrom lo cs = true → readCells (writeCells cs a v) b = readCells cs b
  | [], _, _ => by
    by_cases hv : v = 0#32 <;> simp [writeCells, readCells, hv]
    omega
  | (k, u) :: rest, lo, hr => by
    simp only [risingFrom, Bool.and_eq_true, decide_eq_true_eq] at hr
    unfold writeCells
    split
    · rename_i hlt
      split
      · rfl
      · by_cases hb : b < a
        · simp [readCells, hb, show b < k by omega]
        · simp [readCells, hb, hab]
    · split
      · rename_i _ he
        subst he
        split
        · by_cases hb : b < a
          · rw [readCells_below hr.2 (by omega)]
            simp [readCells, hb]
          · simp [readCells, hb, hab]
        · simp [readCells, hab]
      · rename_i h1 h2
        simp [readCells, readCells_writeCells_other hab hr.2]

/-- A property of all addresses listed is kept by a store at an address that has it. -/
theorem writeCells_all {p : Cell → Bool} {a : Nat} {v : Word} (hp : p (a, v) = true) : ∀ {cs : List Cell},
    cs.all p = true → (writeCells cs a v).all p = true
  | [], _ => by
    unfold writeCells
    split <;> simp [hp]
  | (k, u) :: rest, h => by
    simp only [List.all_cons, Bool.and_eq_true] at h
    unfold writeCells
    split
    · split <;> simp [hp, h.1, h.2]
    · split
      · split <;> simp [hp, h.2]
      · simp [h.1, writeCells_all hp h.2]

@[simp] theorem Memory.put_last (m : Memory) (a : Nat) (v : Word) : (m.put a v).last = m.last := rfl
@[simp] theorem Memory.put_size (m : Memory) (a : Nat) (v : Word) : (m.put a v).size = m.size := rfl

/-- The two halves of the canonical form. -/
theorem Memory.wf_iff (m : Memory) : m.wf = true ↔ risingFrom 0 m.cells = true ∧ m.cells.all (fun c => decide (c.1 < m.size)) = true := by
  simp [Memory.wf]

/-- `Mem[a] <- v` inside Memory keeps the canonical form. -/
theorem Memory.put_wf {m : Memory} {a : Nat} {v : Word} (h : m.wf = true) (ha : a < m.size) : (m.put a v).wf = true := by
  rw [Memory.wf_iff] at h ⊢
  exact ⟨writeCells_rising h.1 (Nat.zero_le a), writeCells_all (decide_eq_true ha) h.2⟩

/-- Reading back the cell written. -/
theorem Memory.get_put_same {m : Memory} (h : m.wf = true) (a : Nat) (v : Word) : (m.put a v).get a = v :=
  readCells_writeCells_same ((Memory.wf_iff m).1 h).1

/-- Every other cell is left alone. -/
theorem Memory.get_put_other {m : Memory} (h : m.wf = true) {a b : Nat} (v : Word) (hab : b ≠ a) :
    (m.put a v).get b = m.get b :=
  readCells_writeCells_other hab ((Memory.wf_iff m).1 h).1

/-- What a write inside or outside Memory answers (20_memory.md R64). -/
theorem Memory.write_eq_some {m m' : Memory} {a v : Word} (h : m.write a v = some m') :
    a.toNat < m.size ∧ m' = m.put a.toNat v := by
  unfold Memory.write at h
  split at h
  · exact ⟨‹_›, by simpa using h.symm⟩
  · cases h

/-- A write that answers keeps the canonical form. -/
theorem Memory.write_wf {m m' : Memory} {a v : Word} (h : m.wf = true) (hw : m.write a v = some m') : m'.wf = true := by
  obtain ⟨ha, rfl⟩ := Memory.write_eq_some hw
  exact Memory.put_wf h ha

/-- A write that answers keeps the size. -/
theorem Memory.write_last {m m' : Memory} {a v : Word} (hw : m.write a v = some m') : m'.last = m.last := by
  obtain ⟨-, rfl⟩ := Memory.write_eq_some hw
  rfl

/-- Cleared Memory is canonical. -/
theorem Memory.cleared_wf (last : Word) : (Memory.cleared last).wf = true := rfl

/-- Cleared Memory reads 0 everywhere. -/
@[simp] theorem Memory.cleared_get (last : Word) (a : Nat) : (Memory.cleared last).get a = 0#32 := rfl

/-- Load keeps the size. -/
@[simp] theorem Memory.loadFrom_last (ws : List Word) : ∀ (m : Memory) (a : Nat), (m.loadFrom a ws).last = m.last := by
  induction ws with
  | nil => intros; rfl
  | cons w ws ih => intro m a; simp [Memory.loadFrom, ih]

/-- Load inside Memory keeps the canonical form. -/
theorem Memory.loadFrom_wf (ws : List Word) : ∀ (m : Memory) (a : Nat), m.wf = true → a + ws.length ≤ m.size →
    (m.loadFrom a ws).wf = true := by
  induction ws with
  | nil => intro m a h _; exact h
  | cons w ws ih =>
    intro m a h hl
    simp only [List.length_cons] at hl
    exact ih (m.put a w) (a + 1) (Memory.put_wf h (by omega)) (by simp; omega)

/-- Memory right after reset is canonical. -/
theorem State.reset_mem_wf : State.reset.mem.wf = true := rfl

end Sys2Proof.Machine
end

