-- ==== Sys2Proof/Laws/State.lean ====
section
/-! SUPPORT. One lemma per field per named update of State, each true by unfolding, so that no later proof unfolds a record
update; and reading a register after writing one. -/

namespace Sys2Proof.Machine

variable (s : State)

section setReg
@[simp] theorem State.setReg_regs (r : Reg) (v : Word) : (s.setReg r v).regs = s.regs.set r v := rfl
@[simp] theorem State.setReg_pc (r : Reg) (v : Word) : (s.setReg r v).pc = s.pc := rfl
@[simp] theorem State.setReg_cir (r : Reg) (v : Word) : (s.setReg r v).cir = s.cir := rfl
@[simp] theorem State.setReg_ir (r : Reg) (v : Word) : (s.setReg r v).ir = s.ir := rfl
@[simp] theorem State.setReg_aluA (r : Reg) (v : Word) : (s.setReg r v).aluA = s.aluA := rfl
@[simp] theorem State.setReg_aluB (r : Reg) (v : Word) : (s.setReg r v).aluB = s.aluB := rfl
@[simp] theorem State.setReg_aluRes (r : Reg) (v : Word) : (s.setReg r v).aluRes = s.aluRes := rfl
@[simp] theorem State.setReg_flags (r : Reg) (v : Word) : (s.setReg r v).flags = s.flags := rfl
@[simp] theorem State.setReg_mem (r : Reg) (v : Word) : (s.setReg r v).mem = s.mem := rfl
@[simp] theorem State.setReg_busAddr (r : Reg) (v : Word) : (s.setReg r v).busAddr = s.busAddr := rfl
@[simp] theorem State.setReg_busData (r : Reg) (v : Word) : (s.setReg r v).busData = s.busData := rfl
@[simp] theorem State.setReg_busCtrl (r : Reg) (v : Word) : (s.setReg r v).busCtrl = s.busCtrl := rfl
@[simp] theorem State.setReg_outLog (r : Reg) (v : Word) : (s.setReg r v).outLog = s.outLog := rfl
@[simp] theorem State.setReg_outBusy (r : Reg) (v : Word) : (s.setReg r v).outBusy = s.outBusy := rfl
@[simp] theorem State.setReg_phase (r : Reg) (v : Word) : (s.setReg r v).phase = s.phase := rfl
@[simp] theorem State.setReg_status (r : Reg) (v : Word) : (s.setReg r v).status = s.status := rfl
@[simp] theorem State.setReg_paused (r : Reg) (v : Word) : (s.setReg r v).paused = s.paused := rfl
@[simp] theorem State.setReg_grants (r : Reg) (v : Word) : (s.setReg r v).grants = s.grants := rfl
@[simp] theorem State.setReg_polling (r : Reg) (v : Word) : (s.setReg r v).polling = s.polling := rfl
@[simp] theorem State.setReg_cancel (r : Reg) (v : Word) : (s.setReg r v).cancel = s.cancel := rfl
@[simp] theorem State.setReg_inPhase (r : Reg) (v : Word) : (s.setReg r v).inPhase = s.inPhase := rfl
@[simp] theorem State.setReg_agenda (r : Reg) (v : Word) : (s.setReg r v).agenda = s.agenda := rfl
end setReg

section setPc
@[simp] theorem State.setPc_regs (t : Word) : (s.setPc t).regs = s.regs := rfl
@[simp] theorem State.setPc_pc (t : Word) : (s.setPc t).pc = t := rfl
@[simp] theorem State.setPc_cir (t : Word) : (s.setPc t).cir = s.cir := rfl
@[simp] theorem State.setPc_ir (t : Word) : (s.setPc t).ir = s.ir := rfl
@[simp] theorem State.setPc_aluA (t : Word) : (s.setPc t).aluA = s.aluA := rfl
@[simp] theorem State.setPc_aluB (t : Word) : (s.setPc t).aluB = s.aluB := rfl
@[simp] theorem State.setPc_aluRes (t : Word) : (s.setPc t).aluRes = s.aluRes := rfl
@[simp] theorem State.setPc_flags (t : Word) : (s.setPc t).flags = s.flags := rfl
@[simp] theorem State.setPc_mem (t : Word) : (s.setPc t).mem = s.mem := rfl
@[simp] theorem State.setPc_busAddr (t : Word) : (s.setPc t).busAddr = s.busAddr := rfl
@[simp] theorem State.setPc_busData (t : Word) : (s.setPc t).busData = s.busData := rfl
@[simp] theorem State.setPc_busCtrl (t : Word) : (s.setPc t).busCtrl = s.busCtrl := rfl
@[simp] theorem State.setPc_outLog (t : Word) : (s.setPc t).outLog = s.outLog := rfl
@[simp] theorem State.setPc_outBusy (t : Word) : (s.setPc t).outBusy = s.outBusy := rfl
@[simp] theorem State.setPc_phase (t : Word) : (s.setPc t).phase = s.phase := rfl
@[simp] theorem State.setPc_status (t : Word) : (s.setPc t).status = s.status := rfl
@[simp] theorem State.setPc_paused (t : Word) : (s.setPc t).paused = s.paused := rfl
@[simp] theorem State.setPc_grants (t : Word) : (s.setPc t).grants = s.grants := rfl
@[simp] theorem State.setPc_polling (t : Word) : (s.setPc t).polling = s.polling := rfl
@[simp] theorem State.setPc_cancel (t : Word) : (s.setPc t).cancel = s.cancel := rfl
@[simp] theorem State.setPc_inPhase (t : Word) : (s.setPc t).inPhase = s.inPhase := rfl
@[simp] theorem State.setPc_agenda (t : Word) : (s.setPc t).agenda = s.agenda := rfl
end setPc

section latchInstruction
@[simp] theorem State.latchInstruction_regs (w : Word) : (s.latchInstruction w).regs = s.regs := rfl
@[simp] theorem State.latchInstruction_pc (w : Word) : (s.latchInstruction w).pc = s.pc + 1#32 := rfl
@[simp] theorem State.latchInstruction_cir (w : Word) : (s.latchInstruction w).cir = w := rfl
@[simp] theorem State.latchInstruction_ir (w : Word) : (s.latchInstruction w).ir = s.ir := rfl
@[simp] theorem State.latchInstruction_aluA (w : Word) : (s.latchInstruction w).aluA = s.aluA := rfl
@[simp] theorem State.latchInstruction_aluB (w : Word) : (s.latchInstruction w).aluB = s.aluB := rfl
@[simp] theorem State.latchInstruction_aluRes (w : Word) : (s.latchInstruction w).aluRes = s.aluRes := rfl
@[simp] theorem State.latchInstruction_flags (w : Word) : (s.latchInstruction w).flags = s.flags := rfl
@[simp] theorem State.latchInstruction_mem (w : Word) : (s.latchInstruction w).mem = s.mem := rfl
@[simp] theorem State.latchInstruction_busAddr (w : Word) : (s.latchInstruction w).busAddr = s.busAddr := rfl
@[simp] theorem State.latchInstruction_busData (w : Word) : (s.latchInstruction w).busData = s.busData := rfl
@[simp] theorem State.latchInstruction_busCtrl (w : Word) : (s.latchInstruction w).busCtrl = s.busCtrl := rfl
@[simp] theorem State.latchInstruction_outLog (w : Word) : (s.latchInstruction w).outLog = s.outLog := rfl
@[simp] theorem State.latchInstruction_outBusy (w : Word) : (s.latchInstruction w).outBusy = s.outBusy := rfl
@[simp] theorem State.latchInstruction_phase (w : Word) : (s.latchInstruction w).phase = s.phase := rfl
@[simp] theorem State.latchInstruction_status (w : Word) : (s.latchInstruction w).status = s.status := rfl
@[simp] theorem State.latchInstruction_paused (w : Word) : (s.latchInstruction w).paused = s.paused := rfl
@[simp] theorem State.latchInstruction_grants (w : Word) : (s.latchInstruction w).grants = s.grants := rfl
@[simp] theorem State.latchInstruction_polling (w : Word) : (s.latchInstruction w).polling = s.polling := rfl
@[simp] theorem State.latchInstruction_cancel (w : Word) : (s.latchInstruction w).cancel = s.cancel := rfl
@[simp] theorem State.latchInstruction_inPhase (w : Word) : (s.latchInstruction w).inPhase = s.inPhase := rfl
@[simp] theorem State.latchInstruction_agenda (w : Word) : (s.latchInstruction w).agenda = s.agenda := rfl
end latchInstruction

section setIr
@[simp] theorem State.setIr_regs (w : Word) : (s.setIr w).regs = s.regs := rfl
@[simp] theorem State.setIr_pc (w : Word) : (s.setIr w).pc = s.pc := rfl
@[simp] theorem State.setIr_cir (w : Word) : (s.setIr w).cir = s.cir := rfl
@[simp] theorem State.setIr_ir (w : Word) : (s.setIr w).ir = some w := rfl
@[simp] theorem State.setIr_aluA (w : Word) : (s.setIr w).aluA = s.aluA := rfl
@[simp] theorem State.setIr_aluB (w : Word) : (s.setIr w).aluB = s.aluB := rfl
@[simp] theorem State.setIr_aluRes (w : Word) : (s.setIr w).aluRes = s.aluRes := rfl
@[simp] theorem State.setIr_flags (w : Word) : (s.setIr w).flags = s.flags := rfl
@[simp] theorem State.setIr_mem (w : Word) : (s.setIr w).mem = s.mem := rfl
@[simp] theorem State.setIr_busAddr (w : Word) : (s.setIr w).busAddr = s.busAddr := rfl
@[simp] theorem State.setIr_busData (w : Word) : (s.setIr w).busData = s.busData := rfl
@[simp] theorem State.setIr_busCtrl (w : Word) : (s.setIr w).busCtrl = s.busCtrl := rfl
@[simp] theorem State.setIr_outLog (w : Word) : (s.setIr w).outLog = s.outLog := rfl
@[simp] theorem State.setIr_outBusy (w : Word) : (s.setIr w).outBusy = s.outBusy := rfl
@[simp] theorem State.setIr_phase (w : Word) : (s.setIr w).phase = s.phase := rfl
@[simp] theorem State.setIr_status (w : Word) : (s.setIr w).status = s.status := rfl
@[simp] theorem State.setIr_paused (w : Word) : (s.setIr w).paused = s.paused := rfl
@[simp] theorem State.setIr_grants (w : Word) : (s.setIr w).grants = s.grants := rfl
@[simp] theorem State.setIr_polling (w : Word) : (s.setIr w).polling = s.polling := rfl
@[simp] theorem State.setIr_cancel (w : Word) : (s.setIr w).cancel = s.cancel := rfl
@[simp] theorem State.setIr_inPhase (w : Word) : (s.setIr w).inPhase = s.inPhase := rfl
@[simp] theorem State.setIr_agenda (w : Word) : (s.setIr w).agenda = s.agenda := rfl
end setIr

section setAluOperands
@[simp] theorem State.setAluOperands_regs (a b : Word) : (s.setAluOperands a b).regs = s.regs := rfl
@[simp] theorem State.setAluOperands_pc (a b : Word) : (s.setAluOperands a b).pc = s.pc := rfl
@[simp] theorem State.setAluOperands_cir (a b : Word) : (s.setAluOperands a b).cir = s.cir := rfl
@[simp] theorem State.setAluOperands_ir (a b : Word) : (s.setAluOperands a b).ir = s.ir := rfl
@[simp] theorem State.setAluOperands_aluA (a b : Word) : (s.setAluOperands a b).aluA = a := rfl
@[simp] theorem State.setAluOperands_aluB (a b : Word) : (s.setAluOperands a b).aluB = b := rfl
@[simp] theorem State.setAluOperands_aluRes (a b : Word) : (s.setAluOperands a b).aluRes = s.aluRes := rfl
@[simp] theorem State.setAluOperands_flags (a b : Word) : (s.setAluOperands a b).flags = s.flags := rfl
@[simp] theorem State.setAluOperands_mem (a b : Word) : (s.setAluOperands a b).mem = s.mem := rfl
@[simp] theorem State.setAluOperands_busAddr (a b : Word) : (s.setAluOperands a b).busAddr = s.busAddr := rfl
@[simp] theorem State.setAluOperands_busData (a b : Word) : (s.setAluOperands a b).busData = s.busData := rfl
@[simp] theorem State.setAluOperands_busCtrl (a b : Word) : (s.setAluOperands a b).busCtrl = s.busCtrl := rfl
@[simp] theorem State.setAluOperands_outLog (a b : Word) : (s.setAluOperands a b).outLog = s.outLog := rfl
@[simp] theorem State.setAluOperands_outBusy (a b : Word) : (s.setAluOperands a b).outBusy = s.outBusy := rfl
@[simp] theorem State.setAluOperands_phase (a b : Word) : (s.setAluOperands a b).phase = s.phase := rfl
@[simp] theorem State.setAluOperands_status (a b : Word) : (s.setAluOperands a b).status = s.status := rfl
@[simp] theorem State.setAluOperands_paused (a b : Word) : (s.setAluOperands a b).paused = s.paused := rfl
@[simp] theorem State.setAluOperands_grants (a b : Word) : (s.setAluOperands a b).grants = s.grants := rfl
@[simp] theorem State.setAluOperands_polling (a b : Word) : (s.setAluOperands a b).polling = s.polling := rfl
@[simp] theorem State.setAluOperands_cancel (a b : Word) : (s.setAluOperands a b).cancel = s.cancel := rfl
@[simp] theorem State.setAluOperands_inPhase (a b : Word) : (s.setAluOperands a b).inPhase = s.inPhase := rfl
@[simp] theorem State.setAluOperands_agenda (a b : Word) : (s.setAluOperands a b).agenda = s.agenda := rfl
end setAluOperands

section setAluRes
@[simp] theorem State.setAluRes_regs (v : Word) : (s.setAluRes v).regs = s.regs := rfl
@[simp] theorem State.setAluRes_pc (v : Word) : (s.setAluRes v).pc = s.pc := rfl
@[simp] theorem State.setAluRes_cir (v : Word) : (s.setAluRes v).cir = s.cir := rfl
@[simp] theorem State.setAluRes_ir (v : Word) : (s.setAluRes v).ir = s.ir := rfl
@[simp] theorem State.setAluRes_aluA (v : Word) : (s.setAluRes v).aluA = s.aluA := rfl
@[simp] theorem State.setAluRes_aluB (v : Word) : (s.setAluRes v).aluB = s.aluB := rfl
@[simp] theorem State.setAluRes_aluRes (v : Word) : (s.setAluRes v).aluRes = v := rfl
@[simp] theorem State.setAluRes_flags (v : Word) : (s.setAluRes v).flags = s.flags := rfl
@[simp] theorem State.setAluRes_mem (v : Word) : (s.setAluRes v).mem = s.mem := rfl
@[simp] theorem State.setAluRes_busAddr (v : Word) : (s.setAluRes v).busAddr = s.busAddr := rfl
@[simp] theorem State.setAluRes_busData (v : Word) : (s.setAluRes v).busData = s.busData := rfl
@[simp] theorem State.setAluRes_busCtrl (v : Word) : (s.setAluRes v).busCtrl = s.busCtrl := rfl
@[simp] theorem State.setAluRes_outLog (v : Word) : (s.setAluRes v).outLog = s.outLog := rfl
@[simp] theorem State.setAluRes_outBusy (v : Word) : (s.setAluRes v).outBusy = s.outBusy := rfl
@[simp] theorem State.setAluRes_phase (v : Word) : (s.setAluRes v).phase = s.phase := rfl
@[simp] theorem State.setAluRes_status (v : Word) : (s.setAluRes v).status = s.status := rfl
@[simp] theorem State.setAluRes_paused (v : Word) : (s.setAluRes v).paused = s.paused := rfl
@[simp] theorem State.setAluRes_grants (v : Word) : (s.setAluRes v).grants = s.grants := rfl
@[simp] theorem State.setAluRes_polling (v : Word) : (s.setAluRes v).polling = s.polling := rfl
@[simp] theorem State.setAluRes_cancel (v : Word) : (s.setAluRes v).cancel = s.cancel := rfl
@[simp] theorem State.setAluRes_inPhase (v : Word) : (s.setAluRes v).inPhase = s.inPhase := rfl
@[simp] theorem State.setAluRes_agenda (v : Word) : (s.setAluRes v).agenda = s.agenda := rfl
end setAluRes

section setFlags
@[simp] theorem State.setFlags_regs (f : Word) : (s.setFlags f).regs = s.regs := rfl
@[simp] theorem State.setFlags_pc (f : Word) : (s.setFlags f).pc = s.pc := rfl
@[simp] theorem State.setFlags_cir (f : Word) : (s.setFlags f).cir = s.cir := rfl
@[simp] theorem State.setFlags_ir (f : Word) : (s.setFlags f).ir = s.ir := rfl
@[simp] theorem State.setFlags_aluA (f : Word) : (s.setFlags f).aluA = s.aluA := rfl
@[simp] theorem State.setFlags_aluB (f : Word) : (s.setFlags f).aluB = s.aluB := rfl
@[simp] theorem State.setFlags_aluRes (f : Word) : (s.setFlags f).aluRes = s.aluRes := rfl
@[simp] theorem State.setFlags_flags (f : Word) : (s.setFlags f).flags = f := rfl
@[simp] theorem State.setFlags_mem (f : Word) : (s.setFlags f).mem = s.mem := rfl
@[simp] theorem State.setFlags_busAddr (f : Word) : (s.setFlags f).busAddr = s.busAddr := rfl
@[simp] theorem State.setFlags_busData (f : Word) : (s.setFlags f).busData = s.busData := rfl
@[simp] theorem State.setFlags_busCtrl (f : Word) : (s.setFlags f).busCtrl = s.busCtrl := rfl
@[simp] theorem State.setFlags_outLog (f : Word) : (s.setFlags f).outLog = s.outLog := rfl
@[simp] theorem State.setFlags_outBusy (f : Word) : (s.setFlags f).outBusy = s.outBusy := rfl
@[simp] theorem State.setFlags_phase (f : Word) : (s.setFlags f).phase = s.phase := rfl
@[simp] theorem State.setFlags_status (f : Word) : (s.setFlags f).status = s.status := rfl
@[simp] theorem State.setFlags_paused (f : Word) : (s.setFlags f).paused = s.paused := rfl
@[simp] theorem State.setFlags_grants (f : Word) : (s.setFlags f).grants = s.grants := rfl
@[simp] theorem State.setFlags_polling (f : Word) : (s.setFlags f).polling = s.polling := rfl
@[simp] theorem State.setFlags_cancel (f : Word) : (s.setFlags f).cancel = s.cancel := rfl
@[simp] theorem State.setFlags_inPhase (f : Word) : (s.setFlags f).inPhase = s.inPhase := rfl
@[simp] theorem State.setFlags_agenda (f : Word) : (s.setFlags f).agenda = s.agenda := rfl
end setFlags

section setBusAddr
@[simp] theorem State.setBusAddr_regs (a : Word) : (s.setBusAddr a).regs = s.regs := rfl
@[simp] theorem State.setBusAddr_pc (a : Word) : (s.setBusAddr a).pc = s.pc := rfl
@[simp] theorem State.setBusAddr_cir (a : Word) : (s.setBusAddr a).cir = s.cir := rfl
@[simp] theorem State.setBusAddr_ir (a : Word) : (s.setBusAddr a).ir = s.ir := rfl
@[simp] theorem State.setBusAddr_aluA (a : Word) : (s.setBusAddr a).aluA = s.aluA := rfl
@[simp] theorem State.setBusAddr_aluB (a : Word) : (s.setBusAddr a).aluB = s.aluB := rfl
@[simp] theorem State.setBusAddr_aluRes (a : Word) : (s.setBusAddr a).aluRes = s.aluRes := rfl
@[simp] theorem State.setBusAddr_flags (a : Word) : (s.setBusAddr a).flags = s.flags := rfl
@[simp] theorem State.setBusAddr_mem (a : Word) : (s.setBusAddr a).mem = s.mem := rfl
@[simp] theorem State.setBusAddr_busAddr (a : Word) : (s.setBusAddr a).busAddr = a := rfl
@[simp] theorem State.setBusAddr_busData (a : Word) : (s.setBusAddr a).busData = s.busData := rfl
@[simp] theorem State.setBusAddr_busCtrl (a : Word) : (s.setBusAddr a).busCtrl = s.busCtrl := rfl
@[simp] theorem State.setBusAddr_outLog (a : Word) : (s.setBusAddr a).outLog = s.outLog := rfl
@[simp] theorem State.setBusAddr_outBusy (a : Word) : (s.setBusAddr a).outBusy = s.outBusy := rfl
@[simp] theorem State.setBusAddr_phase (a : Word) : (s.setBusAddr a).phase = s.phase := rfl
@[simp] theorem State.setBusAddr_status (a : Word) : (s.setBusAddr a).status = s.status := rfl
@[simp] theorem State.setBusAddr_paused (a : Word) : (s.setBusAddr a).paused = s.paused := rfl
@[simp] theorem State.setBusAddr_grants (a : Word) : (s.setBusAddr a).grants = s.grants := rfl
@[simp] theorem State.setBusAddr_polling (a : Word) : (s.setBusAddr a).polling = s.polling := rfl
@[simp] theorem State.setBusAddr_cancel (a : Word) : (s.setBusAddr a).cancel = s.cancel := rfl
@[simp] theorem State.setBusAddr_inPhase (a : Word) : (s.setBusAddr a).inPhase = s.inPhase := rfl
@[simp] theorem State.setBusAddr_agenda (a : Word) : (s.setBusAddr a).agenda = s.agenda := rfl
end setBusAddr

section setBusData
@[simp] theorem State.setBusData_regs (v : Word) : (s.setBusData v).regs = s.regs := rfl
@[simp] theorem State.setBusData_pc (v : Word) : (s.setBusData v).pc = s.pc := rfl
@[simp] theorem State.setBusData_cir (v : Word) : (s.setBusData v).cir = s.cir := rfl
@[simp] theorem State.setBusData_ir (v : Word) : (s.setBusData v).ir = s.ir := rfl
@[simp] theorem State.setBusData_aluA (v : Word) : (s.setBusData v).aluA = s.aluA := rfl
@[simp] theorem State.setBusData_aluB (v : Word) : (s.setBusData v).aluB = s.aluB := rfl
@[simp] theorem State.setBusData_aluRes (v : Word) : (s.setBusData v).aluRes = s.aluRes := rfl
@[simp] theorem State.setBusData_flags (v : Word) : (s.setBusData v).flags = s.flags := rfl
@[simp] theorem State.setBusData_mem (v : Word) : (s.setBusData v).mem = s.mem := rfl
@[simp] theorem State.setBusData_busAddr (v : Word) : (s.setBusData v).busAddr = s.busAddr := rfl
@[simp] theorem State.setBusData_busData (v : Word) : (s.setBusData v).busData = v := rfl
@[simp] theorem State.setBusData_busCtrl (v : Word) : (s.setBusData v).busCtrl = s.busCtrl := rfl
@[simp] theorem State.setBusData_outLog (v : Word) : (s.setBusData v).outLog = s.outLog := rfl
@[simp] theorem State.setBusData_outBusy (v : Word) : (s.setBusData v).outBusy = s.outBusy := rfl
@[simp] theorem State.setBusData_phase (v : Word) : (s.setBusData v).phase = s.phase := rfl
@[simp] theorem State.setBusData_status (v : Word) : (s.setBusData v).status = s.status := rfl
@[simp] theorem State.setBusData_paused (v : Word) : (s.setBusData v).paused = s.paused := rfl
@[simp] theorem State.setBusData_grants (v : Word) : (s.setBusData v).grants = s.grants := rfl
@[simp] theorem State.setBusData_polling (v : Word) : (s.setBusData v).polling = s.polling := rfl
@[simp] theorem State.setBusData_cancel (v : Word) : (s.setBusData v).cancel = s.cancel := rfl
@[simp] theorem State.setBusData_inPhase (v : Word) : (s.setBusData v).inPhase = s.inPhase := rfl
@[simp] theorem State.setBusData_agenda (v : Word) : (s.setBusData v).agenda = s.agenda := rfl
end setBusData

section setBusCtrl
@[simp] theorem State.setBusCtrl_regs (c : BusCtrl) : (s.setBusCtrl c).regs = s.regs := rfl
@[simp] theorem State.setBusCtrl_pc (c : BusCtrl) : (s.setBusCtrl c).pc = s.pc := rfl
@[simp] theorem State.setBusCtrl_cir (c : BusCtrl) : (s.setBusCtrl c).cir = s.cir := rfl
@[simp] theorem State.setBusCtrl_ir (c : BusCtrl) : (s.setBusCtrl c).ir = s.ir := rfl
@[simp] theorem State.setBusCtrl_aluA (c : BusCtrl) : (s.setBusCtrl c).aluA = s.aluA := rfl
@[simp] theorem State.setBusCtrl_aluB (c : BusCtrl) : (s.setBusCtrl c).aluB = s.aluB := rfl
@[simp] theorem State.setBusCtrl_aluRes (c : BusCtrl) : (s.setBusCtrl c).aluRes = s.aluRes := rfl
@[simp] theorem State.setBusCtrl_flags (c : BusCtrl) : (s.setBusCtrl c).flags = s.flags := rfl
@[simp] theorem State.setBusCtrl_mem (c : BusCtrl) : (s.setBusCtrl c).mem = s.mem := rfl
@[simp] theorem State.setBusCtrl_busAddr (c : BusCtrl) : (s.setBusCtrl c).busAddr = s.busAddr := rfl
@[simp] theorem State.setBusCtrl_busData (c : BusCtrl) : (s.setBusCtrl c).busData = s.busData := rfl
@[simp] theorem State.setBusCtrl_busCtrl (c : BusCtrl) : (s.setBusCtrl c).busCtrl = c := rfl
@[simp] theorem State.setBusCtrl_outLog (c : BusCtrl) : (s.setBusCtrl c).outLog = s.outLog := rfl
@[simp] theorem State.setBusCtrl_outBusy (c : BusCtrl) : (s.setBusCtrl c).outBusy = s.outBusy := rfl
@[simp] theorem State.setBusCtrl_phase (c : BusCtrl) : (s.setBusCtrl c).phase = s.phase := rfl
@[simp] theorem State.setBusCtrl_status (c : BusCtrl) : (s.setBusCtrl c).status = s.status := rfl
@[simp] theorem State.setBusCtrl_paused (c : BusCtrl) : (s.setBusCtrl c).paused = s.paused := rfl
@[simp] theorem State.setBusCtrl_grants (c : BusCtrl) : (s.setBusCtrl c).grants = s.grants := rfl
@[simp] theorem State.setBusCtrl_polling (c : BusCtrl) : (s.setBusCtrl c).polling = s.polling := rfl
@[simp] theorem State.setBusCtrl_cancel (c : BusCtrl) : (s.setBusCtrl c).cancel = s.cancel := rfl
@[simp] theorem State.setBusCtrl_inPhase (c : BusCtrl) : (s.setBusCtrl c).inPhase = s.inPhase := rfl
@[simp] theorem State.setBusCtrl_agenda (c : BusCtrl) : (s.setBusCtrl c).agenda = s.agenda := rfl
end setBusCtrl

section outWrite
@[simp] theorem State.outWrite_regs (b : Byte) : (s.outWrite b).regs = s.regs := rfl
@[simp] theorem State.outWrite_pc (b : Byte) : (s.outWrite b).pc = s.pc := rfl
@[simp] theorem State.outWrite_cir (b : Byte) : (s.outWrite b).cir = s.cir := rfl
@[simp] theorem State.outWrite_ir (b : Byte) : (s.outWrite b).ir = s.ir := rfl
@[simp] theorem State.outWrite_aluA (b : Byte) : (s.outWrite b).aluA = s.aluA := rfl
@[simp] theorem State.outWrite_aluB (b : Byte) : (s.outWrite b).aluB = s.aluB := rfl
@[simp] theorem State.outWrite_aluRes (b : Byte) : (s.outWrite b).aluRes = s.aluRes := rfl
@[simp] theorem State.outWrite_flags (b : Byte) : (s.outWrite b).flags = s.flags := rfl
@[simp] theorem State.outWrite_mem (b : Byte) : (s.outWrite b).mem = s.mem := rfl
@[simp] theorem State.outWrite_busAddr (b : Byte) : (s.outWrite b).busAddr = s.busAddr := rfl
@[simp] theorem State.outWrite_busData (b : Byte) : (s.outWrite b).busData = s.busData := rfl
@[simp] theorem State.outWrite_busCtrl (b : Byte) : (s.outWrite b).busCtrl = s.busCtrl := rfl
@[simp] theorem State.outWrite_outLog (b : Byte) : (s.outWrite b).outLog = s.outLog ++ [b] := rfl
@[simp] theorem State.outWrite_outBusy (b : Byte) : (s.outWrite b).outBusy = s.outBusy := rfl
@[simp] theorem State.outWrite_phase (b : Byte) : (s.outWrite b).phase = s.phase := rfl
@[simp] theorem State.outWrite_status (b : Byte) : (s.outWrite b).status = s.status := rfl
@[simp] theorem State.outWrite_paused (b : Byte) : (s.outWrite b).paused = s.paused := rfl
@[simp] theorem State.outWrite_grants (b : Byte) : (s.outWrite b).grants = s.grants := rfl
@[simp] theorem State.outWrite_polling (b : Byte) : (s.outWrite b).polling = s.polling := rfl
@[simp] theorem State.outWrite_cancel (b : Byte) : (s.outWrite b).cancel = s.cancel := rfl
@[simp] theorem State.outWrite_inPhase (b : Byte) : (s.outWrite b).inPhase = s.inPhase := rfl
@[simp] theorem State.outWrite_agenda (b : Byte) : (s.outWrite b).agenda = s.agenda := rfl
end outWrite

section setOutBusy
@[simp] theorem State.setOutBusy_regs (b : Bool) : (s.setOutBusy b).regs = s.regs := rfl
@[simp] theorem State.setOutBusy_pc (b : Bool) : (s.setOutBusy b).pc = s.pc := rfl
@[simp] theorem State.setOutBusy_cir (b : Bool) : (s.setOutBusy b).cir = s.cir := rfl
@[simp] theorem State.setOutBusy_ir (b : Bool) : (s.setOutBusy b).ir = s.ir := rfl
@[simp] theorem State.setOutBusy_aluA (b : Bool) : (s.setOutBusy b).aluA = s.aluA := rfl
@[simp] theorem State.setOutBusy_aluB (b : Bool) : (s.setOutBusy b).aluB = s.aluB := rfl
@[simp] theorem State.setOutBusy_aluRes (b : Bool) : (s.setOutBusy b).aluRes = s.aluRes := rfl
@[simp] theorem State.setOutBusy_flags (b : Bool) : (s.setOutBusy b).flags = s.flags := rfl
@[simp] theorem State.setOutBusy_mem (b : Bool) : (s.setOutBusy b).mem = s.mem := rfl
@[simp] theorem State.setOutBusy_busAddr (b : Bool) : (s.setOutBusy b).busAddr = s.busAddr := rfl
@[simp] theorem State.setOutBusy_busData (b : Bool) : (s.setOutBusy b).busData = s.busData := rfl
@[simp] theorem State.setOutBusy_busCtrl (b : Bool) : (s.setOutBusy b).busCtrl = s.busCtrl := rfl
@[simp] theorem State.setOutBusy_outLog (b : Bool) : (s.setOutBusy b).outLog = s.outLog := rfl
@[simp] theorem State.setOutBusy_outBusy (b : Bool) : (s.setOutBusy b).outBusy = b := rfl
@[simp] theorem State.setOutBusy_phase (b : Bool) : (s.setOutBusy b).phase = s.phase := rfl
@[simp] theorem State.setOutBusy_status (b : Bool) : (s.setOutBusy b).status = s.status := rfl
@[simp] theorem State.setOutBusy_paused (b : Bool) : (s.setOutBusy b).paused = s.paused := rfl
@[simp] theorem State.setOutBusy_grants (b : Bool) : (s.setOutBusy b).grants = s.grants := rfl
@[simp] theorem State.setOutBusy_polling (b : Bool) : (s.setOutBusy b).polling = s.polling := rfl
@[simp] theorem State.setOutBusy_cancel (b : Bool) : (s.setOutBusy b).cancel = s.cancel := rfl
@[simp] theorem State.setOutBusy_inPhase (b : Bool) : (s.setOutBusy b).inPhase = s.inPhase := rfl
@[simp] theorem State.setOutBusy_agenda (b : Bool) : (s.setOutBusy b).agenda = s.agenda := rfl
end setOutBusy

section raise
@[simp] theorem State.raise_regs (k : FaultKind) (v : Word) (p : Phase) : (s.raise k v p).regs = s.regs := rfl
@[simp] theorem State.raise_pc (k : FaultKind) (v : Word) (p : Phase) : (s.raise k v p).pc = s.pc := rfl
@[simp] theorem State.raise_cir (k : FaultKind) (v : Word) (p : Phase) : (s.raise k v p).cir = s.cir := rfl
@[simp] theorem State.raise_ir (k : FaultKind) (v : Word) (p : Phase) : (s.raise k v p).ir = s.ir := rfl
@[simp] theorem State.raise_aluA (k : FaultKind) (v : Word) (p : Phase) : (s.raise k v p).aluA = s.aluA := rfl
@[simp] theorem State.raise_aluB (k : FaultKind) (v : Word) (p : Phase) : (s.raise k v p).aluB = s.aluB := rfl
@[simp] theorem State.raise_aluRes (k : FaultKind) (v : Word) (p : Phase) : (s.raise k v p).aluRes = s.aluRes := rfl
@[simp] theorem State.raise_flags (k : FaultKind) (v : Word) (p : Phase) : (s.raise k v p).flags = s.flags := rfl
@[simp] theorem State.raise_mem (k : FaultKind) (v : Word) (p : Phase) : (s.raise k v p).mem = s.mem := rfl
@[simp] theorem State.raise_busAddr (k : FaultKind) (v : Word) (p : Phase) : (s.raise k v p).busAddr = s.busAddr := rfl
@[simp] theorem State.raise_busData (k : FaultKind) (v : Word) (p : Phase) : (s.raise k v p).busData = s.busData := rfl
@[simp] theorem State.raise_busCtrl (k : FaultKind) (v : Word) (p : Phase) : (s.raise k v p).busCtrl = s.busCtrl := rfl
@[simp] theorem State.raise_outLog (k : FaultKind) (v : Word) (p : Phase) : (s.raise k v p).outLog = s.outLog := rfl
@[simp] theorem State.raise_outBusy (k : FaultKind) (v : Word) (p : Phase) : (s.raise k v p).outBusy = s.outBusy := rfl
@[simp] theorem State.raise_phase (k : FaultKind) (v : Word) (p : Phase) : (s.raise k v p).phase = s.phase := rfl
@[simp] theorem State.raise_status (k : FaultKind) (v : Word) (p : Phase) : (s.raise k v p).status = .faulted ⟨k, v, p⟩ := rfl
@[simp] theorem State.raise_paused (k : FaultKind) (v : Word) (p : Phase) : (s.raise k v p).paused = s.paused := rfl
@[simp] theorem State.raise_grants (k : FaultKind) (v : Word) (p : Phase) : (s.raise k v p).grants = s.grants := rfl
@[simp] theorem State.raise_polling (k : FaultKind) (v : Word) (p : Phase) : (s.raise k v p).polling = s.polling := rfl
@[simp] theorem State.raise_cancel (k : FaultKind) (v : Word) (p : Phase) : (s.raise k v p).cancel = s.cancel := rfl
@[simp] theorem State.raise_inPhase (k : FaultKind) (v : Word) (p : Phase) : (s.raise k v p).inPhase = s.inPhase := rfl
@[simp] theorem State.raise_agenda (k : FaultKind) (v : Word) (p : Phase) : (s.raise k v p).agenda = s.agenda := rfl
end raise

section halt
@[simp] theorem State.halt_regs : s.halt.regs = s.regs := rfl
@[simp] theorem State.halt_pc : s.halt.pc = s.pc := rfl
@[simp] theorem State.halt_cir : s.halt.cir = s.cir := rfl
@[simp] theorem State.halt_ir : s.halt.ir = s.ir := rfl
@[simp] theorem State.halt_aluA : s.halt.aluA = s.aluA := rfl
@[simp] theorem State.halt_aluB : s.halt.aluB = s.aluB := rfl
@[simp] theorem State.halt_aluRes : s.halt.aluRes = s.aluRes := rfl
@[simp] theorem State.halt_flags : s.halt.flags = s.flags := rfl
@[simp] theorem State.halt_mem : s.halt.mem = s.mem := rfl
@[simp] theorem State.halt_busAddr : s.halt.busAddr = s.busAddr := rfl
@[simp] theorem State.halt_busData : s.halt.busData = s.busData := rfl
@[simp] theorem State.halt_busCtrl : s.halt.busCtrl = s.busCtrl := rfl
@[simp] theorem State.halt_outLog : s.halt.outLog = s.outLog := rfl
@[simp] theorem State.halt_outBusy : s.halt.outBusy = s.outBusy := rfl
@[simp] theorem State.halt_phase : s.halt.phase = .fetch := rfl
@[simp] theorem State.halt_status : s.halt.status = .halted := rfl
@[simp] theorem State.halt_paused : s.halt.paused = s.paused := rfl
@[simp] theorem State.halt_grants : s.halt.grants = s.grants := rfl
@[simp] theorem State.halt_polling : s.halt.polling = s.polling := rfl
@[simp] theorem State.halt_cancel : s.halt.cancel = s.cancel := rfl
@[simp] theorem State.halt_inPhase : s.halt.inPhase = s.inPhase := rfl
@[simp] theorem State.halt_agenda : s.halt.agenda = s.agenda := rfl
end halt

section endPhase
@[simp] theorem State.endPhase_regs : s.endPhase.regs = s.regs := rfl
@[simp] theorem State.endPhase_pc : s.endPhase.pc = s.pc := rfl
@[simp] theorem State.endPhase_cir : s.endPhase.cir = s.cir := rfl
@[simp] theorem State.endPhase_ir : s.endPhase.ir = s.ir := rfl
@[simp] theorem State.endPhase_aluA : s.endPhase.aluA = s.aluA := rfl
@[simp] theorem State.endPhase_aluB : s.endPhase.aluB = s.aluB := rfl
@[simp] theorem State.endPhase_aluRes : s.endPhase.aluRes = s.aluRes := rfl
@[simp] theorem State.endPhase_flags : s.endPhase.flags = s.flags := rfl
@[simp] theorem State.endPhase_mem : s.endPhase.mem = s.mem := rfl
@[simp] theorem State.endPhase_busAddr : s.endPhase.busAddr = s.busAddr := rfl
@[simp] theorem State.endPhase_busData : s.endPhase.busData = s.busData := rfl
@[simp] theorem State.endPhase_busCtrl : s.endPhase.busCtrl = s.busCtrl := rfl
@[simp] theorem State.endPhase_outLog : s.endPhase.outLog = s.outLog := rfl
@[simp] theorem State.endPhase_outBusy : s.endPhase.outBusy = s.outBusy := rfl
@[simp] theorem State.endPhase_phase : s.endPhase.phase = s.phase.next := rfl
@[simp] theorem State.endPhase_status : s.endPhase.status = s.status := rfl
@[simp] theorem State.endPhase_paused : s.endPhase.paused = s.paused := rfl
@[simp] theorem State.endPhase_grants : s.endPhase.grants = s.grants := rfl
@[simp] theorem State.endPhase_polling : s.endPhase.polling = s.polling := rfl
@[simp] theorem State.endPhase_cancel : s.endPhase.cancel = s.cancel := rfl
@[simp] theorem State.endPhase_inPhase : s.endPhase.inPhase = none := rfl
@[simp] theorem State.endPhase_agenda : s.endPhase.agenda = s.agenda := rfl
end endPhase

section stopCancelled
@[simp] theorem State.stopCancelled_regs : s.stopCancelled.regs = s.regs := rfl
@[simp] theorem State.stopCancelled_pc : s.stopCancelled.pc = s.pc := rfl
@[simp] theorem State.stopCancelled_cir : s.stopCancelled.cir = s.cir := rfl
@[simp] theorem State.stopCancelled_ir : s.stopCancelled.ir = s.ir := rfl
@[simp] theorem State.stopCancelled_aluA : s.stopCancelled.aluA = s.aluA := rfl
@[simp] theorem State.stopCancelled_aluB : s.stopCancelled.aluB = s.aluB := rfl
@[simp] theorem State.stopCancelled_aluRes : s.stopCancelled.aluRes = s.aluRes := rfl
@[simp] theorem State.stopCancelled_flags : s.stopCancelled.flags = s.flags := rfl
@[simp] theorem State.stopCancelled_mem : s.stopCancelled.mem = s.mem := rfl
@[simp] theorem State.stopCancelled_busAddr : s.stopCancelled.busAddr = s.busAddr := rfl
@[simp] theorem State.stopCancelled_busData : s.stopCancelled.busData = s.busData := rfl
@[simp] theorem State.stopCancelled_busCtrl : s.stopCancelled.busCtrl = s.busCtrl := rfl
@[simp] theorem State.stopCancelled_outLog : s.stopCancelled.outLog = s.outLog := rfl
@[simp] theorem State.stopCancelled_outBusy : s.stopCancelled.outBusy = s.outBusy := rfl
@[simp] theorem State.stopCancelled_phase : s.stopCancelled.phase = s.phase := rfl
@[simp] theorem State.stopCancelled_status : s.stopCancelled.status = .cancelled := rfl
@[simp] theorem State.stopCancelled_paused : s.stopCancelled.paused = s.paused := rfl
@[simp] theorem State.stopCancelled_grants : s.stopCancelled.grants = s.grants := rfl
@[simp] theorem State.stopCancelled_polling : s.stopCancelled.polling = false := rfl
@[simp] theorem State.stopCancelled_cancel : s.stopCancelled.cancel = s.cancel := rfl
@[simp] theorem State.stopCancelled_inPhase : s.stopCancelled.inPhase = none := rfl
@[simp] theorem State.stopCancelled_agenda : s.stopCancelled.agenda = s.agenda := rfl
end stopCancelled

section startPhase
@[simp] theorem State.startPhase_regs : s.startPhase.regs = s.regs := rfl
@[simp] theorem State.startPhase_pc : s.startPhase.pc = s.pc := rfl
@[simp] theorem State.startPhase_cir : s.startPhase.cir = s.cir := rfl
@[simp] theorem State.startPhase_ir : s.startPhase.ir = s.ir := rfl
@[simp] theorem State.startPhase_aluA : s.startPhase.aluA = s.aluA := rfl
@[simp] theorem State.startPhase_aluB : s.startPhase.aluB = s.aluB := rfl
@[simp] theorem State.startPhase_aluRes : s.startPhase.aluRes = s.aluRes := rfl
@[simp] theorem State.startPhase_flags : s.startPhase.flags = s.flags := rfl
@[simp] theorem State.startPhase_mem : s.startPhase.mem = s.mem := rfl
@[simp] theorem State.startPhase_busAddr : s.startPhase.busAddr = s.busAddr := rfl
@[simp] theorem State.startPhase_busData : s.startPhase.busData = s.busData := rfl
@[simp] theorem State.startPhase_busCtrl : s.startPhase.busCtrl = s.busCtrl := rfl
@[simp] theorem State.startPhase_outLog : s.startPhase.outLog = s.outLog := rfl
@[simp] theorem State.startPhase_outBusy : s.startPhase.outBusy = s.outBusy := rfl
@[simp] theorem State.startPhase_phase : s.startPhase.phase = s.phase := rfl
@[simp] theorem State.startPhase_status : s.startPhase.status = s.status := rfl
@[simp] theorem State.startPhase_paused : s.startPhase.paused = s.paused := rfl
@[simp] theorem State.startPhase_grants : s.startPhase.grants = s.grants := rfl
@[simp] theorem State.startPhase_polling : s.startPhase.polling = false := rfl
@[simp] theorem State.startPhase_cancel : s.startPhase.cancel = s.cancel := rfl
@[simp] theorem State.startPhase_inPhase : s.startPhase.inPhase = some ⟨s.phaseOps, {}⟩ := rfl
@[simp] theorem State.startPhase_agenda : s.startPhase.agenda = s.agenda := rfl
end startPhase

/-- Reading the register written gives the word written. -/
@[simp] theorem State.reg_setReg_same (r : Reg) (v : Word) : (s.setReg r v).reg r = v := by
  simp [State.reg, State.setReg]

/-- Writing a register leaves every other one alone. -/
theorem State.reg_setReg_other (r r' : Reg) (v : Word) (h : r' ≠ r) : (s.setReg r v).reg r' = s.reg r' := by
  have : (r : Nat) ≠ (r' : Nat) := fun e => h (Fin.ext e.symm)
  simp [State.reg, State.setReg, this]

/-- A register read depends on the register file alone. -/
theorem State.reg_congr {s t : State} (h : t.regs = s.regs) (r : Reg) : t.reg r = s.reg r := by
  simp [State.reg, h]

end Sys2Proof.Machine
end

