-- ==== Sys2Proof/Laws/Run.lean ====
section
/-! SUPPORT. What each shared operation can do, once: the Bus transactions, the phases FETCH and DECODE run whole, and each
EXECUTE list run whole. Later proofs cite these instead of running micro-steps. -/

namespace Sys2Proof.Machine

/-- Memory answers a read inside its bounds. -/
theorem Memory.read_inside {m : Memory} {a : Word} (h : a.toNat < m.size) : m.read a = some (m.get a.toNat) := by
  simp [Memory.read, h]

/-- Memory answers no read outside its bounds (20_memory.md R64). -/
theorem Memory.read_outside {m : Memory} {a : Word} (h : m.size ≤ a.toNat) : m.read a = none := by
  simp [Memory.read, Nat.not_lt.2 h]

/-- Memory takes a write inside its bounds. -/
theorem Memory.write_inside {m : Memory} {a v : Word} (h : a.toNat < m.size) : m.write a v = some (m.put a.toNat v) := by
  simp [Memory.write, h]

/-- Memory takes no write outside its bounds (20_memory.md R64). -/
theorem Memory.write_outside {m : Memory} {a v : Word} (h : m.size ≤ a.toNat) : m.write a v = none := by
  simp [Memory.write, Nat.not_lt.2 h]

/-- FETCH inside Memory (40_engine.md R144, 20_memory.md R66). -/
theorem fetchPhase_inside {s : State} (h : s.pc.toNat < s.mem.size) :
    fetchPhase s = .complete { s with
      cir := s.mem.get s.pc.toNat, pc := s.pc + 1#32,
      busAddr := s.pc, busData := s.mem.get s.pc.toNat, busCtrl := .idle } := by
  simp [fetchPhase, fetchOps, busReadOps, runMicros, Micro.run, AddrSource.value, State.setBusAddr, State.setBusCtrl,
    State.setBusData, State.latchInstruction, Memory.read_inside h]

/-- FETCH outside Memory: the fault, with PC and CIR as they were (40_engine.md R144, 60_exceptions.md R244). -/
theorem fetchPhase_outside {s : State} (h : s.mem.size ≤ s.pc.toNat) :
    fetchPhase s = .ended { s with
      busAddr := s.pc, busCtrl := .read, status := .faulted ⟨.outOfRange, s.pc, .fetch⟩ } := by
  simp [fetchPhase, fetchOps, busReadOps, runMicros, Micro.run, AddrSource.value, State.setBusAddr, State.setBusCtrl,
    State.raise, Memory.read_outside h]

/-- DECODE (40_engine.md R146). -/
@[simp] theorem decodePhase_eq (s : State) : decodePhase s = .complete { s with ir := some s.cir } := rfl

/-- An ALU instruction whose result goes to a register (42_alu.md R181). -/
theorem runExecute_alu (op : AluOp) (a : OperandA) (b : OperandB) (rd : Reg) (s : State) :
    runExecute (aluOps op a b (.writeReg rd)) s = .next { s with
      regs := s.regs.set rd (op.apply (s.operandA a) (s.operandB b)),
      aluA := s.operandA a, aluB := s.operandB b, aluRes := op.apply (s.operandA a) (s.operandB b) } := rfl

/-- CMP (42_alu.md R181, R192). -/
theorem runExecute_cmp (rd : Reg) (b : OperandB) (s : State) :
    runExecute (cmpOps rd b) s = .next { s with
      flags := compareFlags (s.reg rd) (s.operandB b),
      aluA := s.reg rd, aluB := s.operandB b, aluRes := compareFlags (s.reg rd) (s.operandB b) } := rfl

/-- A branch (43_branch.md R212). -/
theorem runExecute_branch (c : Condition) (label : BitVec 16) (s : State) :
    runExecute (branchOps c label) s =
      .next { s with pc := if c.holds s.flags then branchTarget label else s.pc } := by
  cases h : c.holds s.flags <;>
    simp [runExecute, branchOps, runMicros, Micro.run, PhaseEnd.state, h, State.setPc]

/-- `B??` (43_branch.md R218). -/
theorem runExecute_bxx (s : State) :
    runExecute bxxOps s = .next { s with status := .faulted ⟨.illegalInstruction, s.cir, .execute⟩ } := rfl

/-- OUT (44_out_halt.md R230). -/
theorem runExecute_out (b : OperandB) (s : State) :
    runExecute (outOps b) s =
      .next { s with outLog := s.outLog ++ [outByteOf (s.operandB b)], outBusy := false } := rfl

/-- HALT (44_out_halt.md R233). -/
theorem runExecute_halt (s : State) : runExecute haltOps s = .next { s with status := .halted, phase := .fetch } := rfl

/-- LDR inside Memory (41_load_store.md R171). -/
theorem runExecute_ldr_inside {s : State} {rd : Reg} {ea : BitVec 20} (h : ea.toNat < s.mem.size) :
    runExecute (ldrOps rd ea) s = .next { s with
      regs := s.regs.set rd (s.mem.get ea.toNat),
      busAddr := ea.setWidth 32, busData := s.mem.get ea.toNat, busCtrl := .idle } := by
  have e : (ea.setWidth 32).toNat = ea.toNat := by simp; omega
  simp [runExecute, ldrOps, busReadOps, runMicros, Micro.run, AddrSource.value, State.setBusAddr, State.setBusCtrl,
    State.setBusData, State.setReg, PhaseEnd.state, Memory.read_inside (e.symm ▸ h : (ea.setWidth 32).toNat < s.mem.size), e,
    -BitVec.toNat_setWidth]

/-- LDR outside Memory: the fault, the register not written (41_load_store.md R171, 60_exceptions.md R244). -/
theorem runExecute_ldr_outside {s : State} {rd : Reg} {ea : BitVec 20} (h : s.mem.size ≤ ea.toNat) :
    runExecute (ldrOps rd ea) s = .next { s with
      busAddr := ea.setWidth 32, busCtrl := .read,
      status := .faulted ⟨.outOfRange, ea.setWidth 32, .execute⟩ } := by
  have e : (ea.setWidth 32).toNat = ea.toNat := by simp; omega
  simp [runExecute, ldrOps, busReadOps, runMicros, Micro.run, AddrSource.value, State.setBusAddr, State.setBusCtrl,
    State.raise, PhaseEnd.state, Memory.read_outside (e.symm ▸ h : s.mem.size ≤ (ea.setWidth 32).toNat)]

/-- STR inside Memory (41_load_store.md R172). -/
theorem runExecute_str_inside {s : State} {rd : Reg} {ea : BitVec 20} (h : ea.toNat < s.mem.size) :
    runExecute (strOps rd ea) s = .next { s with
      mem := s.mem.put ea.toNat (s.reg rd),
      busAddr := ea.setWidth 32, busData := s.reg rd, busCtrl := .idle } := by
  have e : (ea.setWidth 32).toNat = ea.toNat := by simp; omega
  simp [runExecute, strOps, busWriteOps, runMicros, Micro.run, AddrSource.value, State.setBusAddr, State.setBusCtrl,
    State.setBusData, PhaseEnd.state, Memory.write_inside (e.symm ▸ h : (ea.setWidth 32).toNat < s.mem.size), e,
    -BitVec.toNat_setWidth]

/-- STR outside Memory: the fault, no cell written (41_load_store.md R172, 60_exceptions.md R244). -/
theorem runExecute_str_outside {s : State} {rd : Reg} {ea : BitVec 20} (h : s.mem.size ≤ ea.toNat) :
    runExecute (strOps rd ea) s = .next { s with
      busAddr := ea.setWidth 32, busData := s.reg rd, busCtrl := .write,
      status := .faulted ⟨.outOfRange, ea.setWidth 32, .execute⟩ } := by
  have e : (ea.setWidth 32).toNat = ea.toNat := by simp; omega
  simp [runExecute, strOps, busWriteOps, runMicros, Micro.run, AddrSource.value, State.setBusAddr, State.setBusCtrl,
    State.setBusData, State.raise, PhaseEnd.state,
    Memory.write_outside (e.symm ▸ h : s.mem.size ≤ (ea.setWidth 32).toNat)]

/-- The meaning of every instruction is its EXECUTE list run whole, the list the engine also runs step by step. -/
theorem exec_eq_runExecute (i : Instr) (s : State) : exec i s = runExecute (executeOps i) s := by
  cases i <;> rfl

end Sys2Proof.Machine
end

