-- ==== Sys2Proof/Laws/Engine.lean ====
section
/-! SUPPORT. What the engine can do, once: what a micro-step leaves alone, what the host's turn can do to a running machine, the
facts about the micro-step lists, and a phase driven tick by tick against the phase run whole. -/

namespace Sys2Proof.Machine

/-- Two states that agree in the control state a micro-step never touches when the phase goes on. -/
structure SameControl (s t : State) : Prop where
  status : t.status = s.status
  phase : t.phase = s.phase
  paused : t.paused = s.paused
  grants : t.grants = s.grants
  cancel : t.cancel = s.cancel
  agenda : t.agenda = s.agenda
  inPhase : t.inPhase = s.inPhase
  polling : t.polling = s.polling
  last : t.mem.last = s.mem.last

/-- A micro-step after which the phase goes on leaves the control state and the size of Memory alone. -/
theorem Micro.run_goes {ph : Phase} {s s' : State} {h h' : Held} {op : Micro} (hr : op.run ph s h = .goes s' h') :
    SameControl s s' := by
  cases op <;> simp only [Micro.run] at hr
  case memRead a =>
    split at hr <;> cases hr
    exact ⟨rfl, rfl, rfl, rfl, rfl, rfl, rfl, rfl, rfl⟩
  case memWrite a =>
    split at hr
    · rename_i hm
      cases hr
      exact ⟨rfl, rfl, rfl, rfl, rfl, rfl, rfl, rfl, Memory.write_last hm⟩
    · cases hr
  case branch c target =>
    cases hr
    split <;> exact ⟨rfl, rfl, rfl, rfl, rfl, rfl, rfl, rfl, rfl⟩
  all_goals cases hr
  all_goals exact ⟨rfl, rfl, rfl, rfl, rfl, rfl, rfl, rfl, rfl⟩

/-- A micro-step that ends the run is HALT, a fault of Memory, or the fault of `B??`; it changes STATUS, HALT also PHASE. -/
theorem Micro.run_ends {ph : Phase} {s s' : State} {h : Held} {op : Micro} (hr : op.run ph s h = .ends s') :
    (op = .halt ∧ s' = s.halt) ∨
    (∃ a : AddrSource, (op = .memRead a ∨ op = .memWrite a) ∧ s.mem.size ≤ (a.value s).toNat ∧
      s' = s.raise .outOfRange (a.value s) ph) ∨
    (op = .raiseIllegal ∧ s' = s.raise .illegalInstruction s.cir ph) := by
  cases op <;> simp only [Micro.run] at hr
  case memRead a =>
    split at hr
    · cases hr
    · rename_i hm
      cases hr
      refine .inr (.inl ⟨a, .inl rfl, ?_, rfl⟩)
      by_contra hlt
      rw [Memory.read_inside (by omega)] at hm
      cases hm
  case memWrite a =>
    split at hr
    · cases hr
    · rename_i hm
      cases hr
      refine .inr (.inl ⟨a, .inr rfl, ?_, rfl⟩)
      by_contra hlt
      rw [Memory.write_inside (by omega)] at hm
      cases hm
  case halt => cases hr; exact .inl ⟨rfl, rfl⟩
  case raiseIllegal => cases hr; exact .inr (.inr ⟨rfl, rfl⟩)
  all_goals cases hr

/-- A micro-step that ends the run leaves no run active. -/
theorem Micro.run_ends_status {ph : Phase} {s s' : State} {h : Held} {op : Micro} (hr : op.run ph s h = .ends s') :
    s'.status ≠ .running := by
  obtain ⟨-, rfl⟩ | ⟨_, -, -, rfl⟩ | ⟨-, rfl⟩ := Micro.run_ends hr <;> simp

/-- Memory's canonical form is kept by every micro-step. -/
theorem Micro.run_goes_wf {ph : Phase} {s s' : State} {h h' : Held} {op : Micro} (hr : op.run ph s h = .goes s' h')
    (hw : s.mem.wf = true) : s'.mem.wf = true := by
  cases op <;> simp only [Micro.run] at hr
  case memRead a =>
    split at hr <;> cases hr
    exact hw
  case memWrite a =>
    split at hr
    · rename_i hm
      cases hr
      exact Memory.write_wf hw hm
    · cases hr
  case branch c target =>
    cases hr
    split <;> exact hw
  all_goals cases hr
  all_goals exact hw

/-- A result with another in-phase position in it. -/
def MicroResult.at (q : Option Progress) : MicroResult → MicroResult
  | .goes s h => .goes { s with inPhase := q } h
  | .ends s => .ends { s with inPhase := q }

/-- What a micro-step does does not depend on the in-phase position. -/
theorem Micro.run_at (ph : Phase) (s : State) (h : Held) (op : Micro) (q : Option Progress) :
    op.run ph { s with inPhase := q } h = (op.run ph s h).at q := by
  cases op
  case memRead a => cases a <;> simp only [Micro.run, AddrSource.value] <;> split <;> rfl
  case memWrite a => cases a <;> simp only [Micro.run, AddrSource.value] <;> split <;> rfl
  case operands a b => cases a <;> cases b <;> rfl
  case holdOperand b => cases b <;> rfl
  case branch c target => simp only [Micro.run]; split <;> rfl
  all_goals rfl

/-- What the host's actions can do to a machine whose run is active: the flags of pause and cancellation and what is left to do,
and nothing else; a token once set stays set. -/
theorem deliver_running : ∀ (es : List HostEvent) (s : State), s.status = .running →
    ∃ p g c ag, deliver es s = { s with paused := p, grants := g, cancel := c, agenda := ag } ∧
      (c = s.cancel ∨ c = some true)
  | [], s, _ => ⟨_, _, _, _, rfl, .inl rfl⟩
  | e :: es, s, hs => by
    cases e
    case reset => exact ⟨s.paused, s.grants, some true, (.reset :: es) :: s.agenda,
      by simp [deliver, HostEvent.needsStop, hs], .inr rfl⟩
    case run => exact ⟨s.paused, s.grants, some true, (.run :: es) :: s.agenda,
      by simp [deliver, HostEvent.needsStop, hs], .inr rfl⟩
    case load ws =>
      have e1 : deliver (.load ws :: es) s = deliver es s := by
        simp [deliver, HostEvent.needsStop, HostEvent.apply, State.applyLoad, hs]
      rw [e1]
      exact deliver_running es s hs
    case pause =>
      obtain ⟨p, g, c, ag, h, hc⟩ := deliver_running es s.applyPause hs
      exact ⟨p, g, c, ag, by simpa [deliver, HostEvent.needsStop, HostEvent.apply, State.applyPause] using h, hc⟩
    case resume =>
      obtain ⟨p, g, c, ag, h, hc⟩ := deliver_running es s.applyResume hs
      exact ⟨p, g, c, ag, by simpa [deliver, HostEvent.needsStop, HostEvent.apply, State.applyResume] using h, hc⟩
    case step =>
      by_cases hp : s.paused = true
      · obtain ⟨p, g, c, ag, h, hc⟩ := deliver_running es { s with grants := s.grants + 1 } hs
        exact ⟨p, g, c, ag, by simpa [deliver, HostEvent.needsStop, HostEvent.apply, State.applyStep, hp] using h, hc⟩
      · obtain ⟨p, g, c, ag, h, hc⟩ := deliver_running es s hs
        exact ⟨p, g, c, ag, by simpa [deliver, HostEvent.needsStop, HostEvent.apply, State.applyStep, hp] using h, hc⟩
    case cancel =>
      obtain ⟨p, g, c, ag, h, hc⟩ := deliver_running es { s with cancel := some true } hs
      refine ⟨p, g, c, ag, by simpa [deliver, HostEvent.needsStop, HostEvent.apply, State.applyCancel, hs] using h, .inr ?_⟩
      rcases hc with hc | hc <;> exact hc

/-- The host's turn with an active run (`deliver_running`). -/
theorem hostTurn_running {s : State} (hs : s.status = .running) :
    ∃ p g c ag, hostTurn s = { s with paused := p, grants := g, cancel := c, agenda := ag } ∧
      (c = s.cancel ∨ c = some true) := by
  unfold hostTurn
  split
  · exact ⟨_, _, _, _, rfl, .inl rfl⟩
  · rename_i es later ha
    obtain ⟨p, g, c, ag, h, hc⟩ := deliver_running es { s with agenda := later } hs
    exact ⟨p, g, c, ag, h, hc⟩

/-- With nothing for the host to do, its turn changes nothing. -/
theorem hostTurn_empty {s : State} (h : s.agenda = []) : hostTurn s = s := by
  simp [hostTurn, h]

/-- Consuming a grant changes the grants and nothing else. -/
theorem useGrant_eq (s : State) : s.useGrant = { s with grants := if s.paused = true then s.grants - 1 else s.grants } := by
  unfold State.useGrant
  split <;> rfl

/-- Everything a phase boundary can do (40_engine.md R142): the run ends Cancelled, from the poll perhaps with the grant it used
consumed; or it waits in the poll; or the phase that is due starts. -/
theorem boundary_cases (s : State) :
    (s.cancelSeen = true ∧
      (s.boundary = s.stopCancelled ∨
        (s.mustWait = false ∧ s.polling = true ∧ s.boundary = s.useGrant.stopCancelled))) ∨
    (s.cancelSeen = false ∧ s.mustWait = true ∧ s.boundary = { s with polling := true }) ∨
    (s.cancelSeen = false ∧ s.mustWait = false ∧ s.boundary = s.useGrant.startPhase) := by
  unfold State.boundary
  cases s.mustWait <;> cases s.cancelSeen <;> cases s.polling <;> simp

/-- No EXECUTE list fetches or decodes. -/
theorem executeOps_noLatch (i : Instr) : Micro.latchInstruction ∉ executeOps i ∧ Micro.storeIr ∉ executeOps i := by
  cases i <;> simp [executeOps, ldrOps, strOps, busReadOps, busWriteOps, alu3Ops, alu2Ops, cmpOps, aluOps, branchOps, bxxOps,
    outOps, haltOps]

/-- Only `B??` raises IllegalInstruction (60_exceptions.md R241). -/
theorem executeOps_raiseIllegal {i : Instr} (h : Micro.raiseIllegal ∈ executeOps i) : i.family = .unassigned := by
  cases i <;> simp [executeOps, ldrOps, strOps, busReadOps, busWriteOps, alu3Ops, alu2Ops, cmpOps, aluOps, branchOps, bxxOps,
    outOps, haltOps] at h <;> rfl

/-- An EXECUTE list writes FLAGS only with the result of CMP. -/
theorem executeOps_flagsReady (i : Instr) (known : Bool) : flagsReady known (executeOps i) = true := by
  cases i <;> rfl

/-- No phase has more than eleven micro-steps, and none is empty. -/
theorem phaseOps_length (s : State) : 0 < s.phaseOps.length ∧ s.phaseOps.length ≤ 11 := by
  unfold State.phaseOps
  split
  · decide
  · decide
  · cases decode s.cir <;> simp [executeOps, ldrOps, strOps, busReadOps, busWriteOps, alu3Ops, alu2Ops, cmpOps, aluOps,
      branchOps, bxxOps, outOps, haltOps]

/-- A decoded instruction is of the `B??` rows exactly when the mnemonic is the placeholder. -/
theorem decode_family_unassigned {w : Word} (h : (decode w).family = .unassigned) :
    (decodeFields w).mnemonic = .bxx := by
  unfold decode Decoded.instr at h
  split at h <;> first | assumption | (split at h <;> cases h) | cases h

/-- A phase in progress of an active run with nothing of the host's in sight, driven tick by tick, does what the phase run whole
does; then the next phase is due, or the run has ended. -/
theorem drive_phase : ∀ (ops : List Micro) (s : State) (h : Held) (fuel : Nat), ops ≠ [] → s.status = .running →
    s.agenda = [] → s.cancelSeen = false →
    drive (ops.length + fuel) { s with inPhase := some ⟨ops, h⟩ } =
      match runMicros s.phase ops s h with
      | .complete t => if t.endPhase.atRest then some t.endPhase else drive fuel t.endPhase
      | .ended t => some { t with inPhase := none }
  | [], _, _, _, hne, _, _, _ => absurd rfl hne
  | op :: rest, s, h, fuel, hne, hs, ha, hc => by
    clear hne
    have htick : tick { s with inPhase := some ⟨op :: rest, h⟩ } =
        State.perform { s with inPhase := some ⟨op :: rest, h⟩ } op rest h := by
      have hc' : State.cancelSeen { s with inPhase := some ⟨op :: rest, h⟩ } = false := hc
      unfold tick
      rw [if_pos (show State.status { s with inPhase := some ⟨op :: rest, h⟩ } = .running from hs)]
      cases op
      case wait k =>
        show (hostTurn { s with inPhase := some ⟨.wait k :: rest, h⟩ }).performWait k rest h = _
        rw [hostTurn_empty (show State.agenda { s with inPhase := some ⟨.wait k :: rest, h⟩ } = [] from ha)]
        simp only [State.performWait, hc', Bool.false_eq_true, if_false]
      all_goals rfl
    have hlen : (op :: rest).length + fuel = (rest.length + fuel) + 1 := by simp; omega
    rw [hlen]
    simp only [drive, htick]
    simp only [State.perform, Micro.run_at, runMicros]
    cases hr : op.run s.phase s h with
    | ends s' =>
      have hst := Micro.run_ends_status hr
      simp [MicroResult.at, State.atRest, hst]
    | goes s' h' =>
      have hk := Micro.run_goes hr
      cases rest with
      | nil =>
        simp only [MicroResult.at, State.proceed, runMicros, List.length_nil, Nat.zero_add]
        rfl
      | cons op' rest' =>
        have ih := drive_phase (op' :: rest') s' h' fuel (by simp) (hk.status.trans hs) (hk.agenda.trans ha)
          (by simpa [State.cancelSeen, hk.cancel] using hc)
        rw [hk.phase] at ih
        rw [← ih]
        simp [MicroResult.at, State.proceed, State.atRest, hk.status, hk.phase, hs]

end Sys2Proof.Machine
end

