-- ==== Sys2Proof/Laws/PerInstr.lean ====
section
/-! SUPPORT. The family EncodedMnemonic, one lemma a constructor: the word of an instruction resolves to the instruction's own
mnemonic (40_engine.md R148, 30_encoding.md R108). -/

namespace Sys2Proof

/-- The word of a well-formed instruction resolves to the instruction's own mnemonic. -/
def Laws.EncodedMnemonic.Statement (i : Instr) : Prop :=
  wellFormed i = true → (decodeFields (encode i)).mnemonic = i.mnemonic

/-- "For every opcode but 7 the subcode does not affect the mnemonic" (40_engine.md R148). -/
theorem mnemonicOf_subcode : ∀ op sub : BitVec 4, op ≠ 7#4 → mnemonicOf op sub = mnemonicOf op 0#4 := by decide

/-- The mnemonic of a packed word of opcode other than 7. -/
theorem mnemonic_packWord {op op2 rn rd : Nat} (ho : op < 16) (h7 : op ≠ 7) (h2 : op2 < 268435456) (h8 : op2 % 256 = 0)
    (hn : rn < 16) (hd : rd < 16) :
    (decodeFields (packWord op op2 rn rd)).mnemonic = mnemonicOf (BitVec.ofNat 4 op) 0#4 := by
  have h : opcodeOf (packWord op op2 rn rd) = BitVec.ofNat 4 op := by
    apply BitVec.eq_of_toNat_eq
    rw [opcodeOf_packWord ho h2 h8 hn hd, BitVec.toNat_ofNat, Nat.mod_eq_of_lt ho]
  have h7' : BitVec.ofNat 4 op ≠ 7#4 := by
    intro e
    have := congrArg BitVec.toNat e
    simp only [BitVec.toNat_ofNat, Nat.reducePow] at this
    omega
  simp only [decodeFields, h]
  exact mnemonicOf_subcode _ _ h7'

/-- The mnemonic of a MEM word. -/
theorem mnemonic_mem {op : Nat} (ho : op < 16) (h7 : op ≠ 7) (rd : Reg) (ea : BitVec 20) :
    (decodeFields (encodeMem op rd ea)).mnemonic = mnemonicOf (BitVec.ofNat 4 op) 0#4 :=
  mnemonic_packWord ho h7 (by omega) (by omega) (by decide) rd.isLt

/-- The mnemonic of a register form. -/
theorem mnemonic_regForm {op : Nat} (ho : op < 16) (h7 : op ≠ 7) (rd rn rm : Reg) :
    (decodeFields (encodeRegForm op rd rn rm)).mnemonic = mnemonicOf (BitVec.ofNat 4 op) 0#4 :=
  mnemonic_packWord ho h7 (by omega) (by omega) rn.isLt rd.isLt

/-- The mnemonic of an immediate form. -/
theorem mnemonic_immForm {op : Nat} (ho : op < 16) (h7 : op ≠ 7) (rd rn : Reg) (imm : BitVec 19) :
    (decodeFields (encodeImmForm op rd rn imm)).mnemonic = mnemonicOf (BitVec.ofNat 4 op) 0#4 :=
  mnemonic_packWord ho h7 (by omega) (by omega) rn.isLt rd.isLt

/-- The mnemonic of a branch word of opcode 7. -/
theorem mnemonic_branch {sub : Nat} (hs : sub < 16) (label : BitVec 16) :
    (decodeFields (encodeBranch 7 sub label)).mnemonic = branchMnemonic (BitVec.ofNat 4 sub) := by
  have ho : opcodeOf (encodeBranch 7 sub label) = 7#4 := by
    apply BitVec.eq_of_toNat_eq
    exact opcodeOf_packWord (by decide) (by omega) (by omega) (by decide) (by decide)
  have e : subcodeOf (encodeBranch 7 sub label) = BitVec.ofNat 4 sub := by
    apply BitVec.eq_of_toNat_eq
    rw [(encodeBranch_fields (by decide) hs label).2, BitVec.toNat_ofNat, Nat.mod_eq_of_lt hs]
  simp only [decodeFields, ho, e]
  rfl

theorem Laws.EncodedMnemonic.ldr (rd : Reg) (ea : BitVec 20) : Laws.EncodedMnemonic.Statement (.ldr rd ea) :=
  fun _ => mnemonic_mem (op := 0) (by decide) (by decide) rd ea

theorem Laws.EncodedMnemonic.str (rd : Reg) (ea : BitVec 20) : Laws.EncodedMnemonic.Statement (.str rd ea) :=
  fun _ => mnemonic_mem (op := 1) (by decide) (by decide) rd ea

theorem Laws.EncodedMnemonic.addReg (rd rn rm : Reg) : Laws.EncodedMnemonic.Statement (.addReg rd rn rm) :=
  fun _ => mnemonic_regForm (op := 2) (by decide) (by decide) rd rn rm

theorem Laws.EncodedMnemonic.addImm (rd rn : Reg) (imm : BitVec 19) : Laws.EncodedMnemonic.Statement (.addImm rd rn imm) :=
  fun _ => mnemonic_immForm (op := 2) (by decide) (by decide) rd rn imm

theorem Laws.EncodedMnemonic.subReg (rd rn rm : Reg) : Laws.EncodedMnemonic.Statement (.subReg rd rn rm) :=
  fun _ => mnemonic_regForm (op := 3) (by decide) (by decide) rd rn rm

theorem Laws.EncodedMnemonic.subImm (rd rn : Reg) (imm : BitVec 19) : Laws.EncodedMnemonic.Statement (.subImm rd rn imm) :=
  fun _ => mnemonic_immForm (op := 3) (by decide) (by decide) rd rn imm

theorem Laws.EncodedMnemonic.andReg (rd rn rm : Reg) : Laws.EncodedMnemonic.Statement (.andReg rd rn rm) :=
  fun _ => mnemonic_regForm (op := 8) (by decide) (by decide) rd rn rm

theorem Laws.EncodedMnemonic.andImm (rd rn : Reg) (imm : BitVec 19) : Laws.EncodedMnemonic.Statement (.andImm rd rn imm) :=
  fun _ => mnemonic_immForm (op := 8) (by decide) (by decide) rd rn imm

theorem Laws.EncodedMnemonic.orrReg (rd rn rm : Reg) : Laws.EncodedMnemonic.Statement (.orrReg rd rn rm) :=
  fun _ => mnemonic_regForm (op := 9) (by decide) (by decide) rd rn rm

theorem Laws.EncodedMnemonic.orrImm (rd rn : Reg) (imm : BitVec 19) : Laws.EncodedMnemonic.Statement (.orrImm rd rn imm) :=
  fun _ => mnemonic_immForm (op := 9) (by decide) (by decide) rd rn imm

theorem Laws.EncodedMnemonic.eorReg (rd rn rm : Reg) : Laws.EncodedMnemonic.Statement (.eorReg rd rn rm) :=
  fun _ => mnemonic_regForm (op := 10) (by decide) (by decide) rd rn rm

theorem Laws.EncodedMnemonic.eorImm (rd rn : Reg) (imm : BitVec 19) : Laws.EncodedMnemonic.Statement (.eorImm rd rn imm) :=
  fun _ => mnemonic_immForm (op := 10) (by decide) (by decide) rd rn imm

theorem Laws.EncodedMnemonic.lslReg (rd rn rm : Reg) : Laws.EncodedMnemonic.Statement (.lslReg rd rn rm) :=
  fun _ => mnemonic_regForm (op := 12) (by decide) (by decide) rd rn rm

theorem Laws.EncodedMnemonic.lslImm (rd rn : Reg) (imm : BitVec 19) : Laws.EncodedMnemonic.Statement (.lslImm rd rn imm) :=
  fun _ => mnemonic_immForm (op := 12) (by decide) (by decide) rd rn imm

theorem Laws.EncodedMnemonic.lsrReg (rd rn rm : Reg) : Laws.EncodedMnemonic.Statement (.lsrReg rd rn rm) :=
  fun _ => mnemonic_regForm (op := 13) (by decide) (by decide) rd rn rm

theorem Laws.EncodedMnemonic.lsrImm (rd rn : Reg) (imm : BitVec 19) : Laws.EncodedMnemonic.Statement (.lsrImm rd rn imm) :=
  fun _ => mnemonic_immForm (op := 13) (by decide) (by decide) rd rn imm

theorem Laws.EncodedMnemonic.movReg (rd rm : Reg) : Laws.EncodedMnemonic.Statement (.movReg rd rm) :=
  fun _ => mnemonic_regForm (op := 4) (by decide) (by decide) rd 0 rm

theorem Laws.EncodedMnemonic.movImm (rd : Reg) (imm : BitVec 19) : Laws.EncodedMnemonic.Statement (.movImm rd imm) :=
  fun _ => mnemonic_immForm (op := 4) (by decide) (by decide) rd 0 imm

theorem Laws.EncodedMnemonic.cmpReg (rd rm : Reg) : Laws.EncodedMnemonic.Statement (.cmpReg rd rm) :=
  fun _ => mnemonic_regForm (op := 5) (by decide) (by decide) rd 0 rm

theorem Laws.EncodedMnemonic.cmpImm (rd : Reg) (imm : BitVec 19) : Laws.EncodedMnemonic.Statement (.cmpImm rd imm) :=
  fun _ => mnemonic_immForm (op := 5) (by decide) (by decide) rd 0 imm

theorem Laws.EncodedMnemonic.mvnReg (rd rm : Reg) : Laws.EncodedMnemonic.Statement (.mvnReg rd rm) :=
  fun _ => mnemonic_regForm (op := 11) (by decide) (by decide) rd 0 rm

theorem Laws.EncodedMnemonic.mvnImm (rd : Reg) (imm : BitVec 19) : Laws.EncodedMnemonic.Statement (.mvnImm rd imm) :=
  fun _ => mnemonic_immForm (op := 11) (by decide) (by decide) rd 0 imm

theorem Laws.EncodedMnemonic.b (label : BitVec 16) : Laws.EncodedMnemonic.Statement (.b label) :=
  fun _ => mnemonic_packWord (op := 6) (op2 := 0 * 2 ^ 24 + label.toNat * 2 ^ 8) (rn := 0) (rd := 0)
    (by decide) (by decide) (by omega) (by omega) (by decide) (by decide)

theorem Laws.EncodedMnemonic.beq (label : BitVec 16) : Laws.EncodedMnemonic.Statement (.beq label) :=
  fun _ => mnemonic_branch (sub := 0) (by decide) label

theorem Laws.EncodedMnemonic.bgt (label : BitVec 16) : Laws.EncodedMnemonic.Statement (.bgt label) :=
  fun _ => mnemonic_branch (sub := 1) (by decide) label

theorem Laws.EncodedMnemonic.blt (label : BitVec 16) : Laws.EncodedMnemonic.Statement (.blt label) :=
  fun _ => mnemonic_branch (sub := 2) (by decide) label

theorem Laws.EncodedMnemonic.bne (label : BitVec 16) : Laws.EncodedMnemonic.Statement (.bne label) :=
  fun _ => mnemonic_branch (sub := 3) (by decide) label

theorem Laws.EncodedMnemonic.bxxLow (sub : BitVec 4) : Laws.EncodedMnemonic.Statement (.bxxLow sub) := by
  unfold Laws.EncodedMnemonic.Statement
  revert sub
  decide

theorem Laws.EncodedMnemonic.bxxHigh (sub : BitVec 4) : Laws.EncodedMnemonic.Statement (.bxxHigh sub) := by
  unfold Laws.EncodedMnemonic.Statement
  revert sub
  decide

theorem Laws.EncodedMnemonic.outReg (rm : Reg) : Laws.EncodedMnemonic.Statement (.outReg rm) :=
  fun _ => mnemonic_regForm (op := 14) (by decide) (by decide) 0 0 rm

theorem Laws.EncodedMnemonic.outImm (imm : BitVec 19) : Laws.EncodedMnemonic.Statement (.outImm imm) :=
  fun _ => mnemonic_immForm (op := 14) (by decide) (by decide) 0 0 imm

theorem Laws.EncodedMnemonic.halt : Laws.EncodedMnemonic.Statement (.halt) :=
  fun _ => by decide

end Sys2Proof
end

