-- ==== Sys2Proof/Tests/Slice0.lean ====
section
/-! SUPPORT. Tests. Expected results are the words and values of 95_test_vectors.md and of the rules' own examples; each test
names its source. The last part shows, for each obligation with hypotheses, a state and operands that meet them. -/

namespace Sys2Proof.Tests

open Sys2Proof Sys2Proof.Machine

/-! ### Well-formedness -/

/-- The subcodes of the two `B??` rows (30_encoding.md R96, spec/opcode_table.json). -/
theorem test_illFormed_bxxLow :
    wellFormed (.bxxLow 3#4) = false ∧ wellFormed (.bxxLow 8#4) = false ∧
    wellFormed (.bxxLow 4#4) = true ∧ wellFormed (.bxxLow 7#4) = true := by decide

/-- The subcodes of the two `B??` rows (30_encoding.md R96, spec/opcode_table.json). -/
theorem test_illFormed_bxxHigh :
    wellFormed (.bxxHigh 7#4) = false ∧ wellFormed (.bxxHigh 0#4) = false ∧
    wellFormed (.bxxHigh 8#4) = true ∧ wellFormed (.bxxHigh 15#4) = true := by decide

/-! ### Decoding: words written from the encodings (95_test_vectors.md V1, V2) -/

theorem test_decode_ldr : decode 0x0FFFFF0A#32 = .ldr 10 1048575#20 ∧ decode 0x0000012C#32 = .ldr 12 1#20 := by decide

theorem test_decode_str : decode 0x1000FF07#32 = .str 7 255#20 ∧ decode 0x12345678#32 = .str 8 144470#20 := by decide

theorem test_decode_addReg : decode 0x28000321#32 = .addReg 1 2 3 ∧ decode 0x2FFFF210#32 = .addReg 0 1 2 := by decide

theorem test_decode_addImm :
    decode 0x27FFFFAA#32 = .addImm 10 10 524287#19 ∧
    decode 0x27FFFFA9#32 = .addImm 9 10 524287#19 := by decide

theorem test_decode_subReg : decode 0x38000321#32 = .subReg 1 2 3 := by decide

theorem test_decode_subImm : decode 0x30000721#32 = .subImm 1 2 7#19 := by decide

theorem test_decode_movReg : decode 0x48000301#32 = .movReg 1 3 := by decide

theorem test_decode_movImm : decode 0x47FFFF0A#32 = .movImm 10 524287#19 := by decide

theorem test_decode_cmpReg : decode 0x58000A0A#32 = .cmpReg 10 10 ∧ decode 0x58000301#32 = .cmpReg 1 3 := by decide

theorem test_decode_cmpImm : decode 0x50000701#32 = .cmpImm 1 7#19 := by decide

theorem test_decode_b : decode 0x60FFFF00#32 = .b 65535#16 ∧ decode 0x6F0001FF#32 = .b 1#16 := by decide

theorem test_decode_beq : decode 0x70000700#32 = .beq 7#16 := by decide

theorem test_decode_bgt : decode 0x71000700#32 = .bgt 7#16 := by decide

theorem test_decode_blt : decode 0x72000700#32 = .blt 7#16 := by decide

theorem test_decode_bne : decode 0x73FFFF00#32 = .bne 65535#16 := by decide

theorem test_decode_bxxLow : decode 0x74000000#32 = .bxxLow 4#4 := by decide

theorem test_decode_bxxHigh : decode 0x7ABCDEF0#32 = .bxxHigh 10#4 ∧ decode 0x7FFFFFFF#32 = .bxxHigh 15#4 := by decide

theorem test_decode_andReg : decode 0x88000321#32 = .andReg 1 2 3 := by decide

theorem test_decode_andImm :
    decode 0x80000721#32 = .andImm 1 2 7#19 ∧ decode 0x80000000#32 = .andImm 0 0 0#19 := by decide

theorem test_decode_orrReg : decode 0x98000321#32 = .orrReg 1 2 3 := by decide

theorem test_decode_orrImm : decode 0x90000721#32 = .orrImm 1 2 7#19 := by decide

theorem test_decode_eorReg : decode 0xA8000321#32 = .eorReg 1 2 3 := by decide

theorem test_decode_eorImm : decode 0xA0000721#32 = .eorImm 1 2 7#19 := by decide

theorem test_decode_mvnReg : decode 0xB8000301#32 = .mvnReg 1 3 := by decide

theorem test_decode_mvnImm : decode 0xB7FFFF0A#32 = .mvnImm 10 524287#19 := by decide

theorem test_decode_lslReg : decode 0xC8000321#32 = .lslReg 1 2 3 := by decide

theorem test_decode_lslImm : decode 0xC0000721#32 = .lslImm 1 2 7#19 := by decide

theorem test_decode_lsrReg : decode 0xD8000321#32 = .lsrReg 1 2 3 := by decide

theorem test_decode_lsrImm : decode 0xD7FFFFAA#32 = .lsrImm 10 10 524287#19 := by decide

theorem test_decode_outReg : decode 0xE8000A00#32 = .outReg 10 := by decide

theorem test_decode_outImm : decode 0xE0012C00#32 = .outImm 300#19 := by decide

theorem test_decode_halt :
    decode 0xF0000000#32 = .halt ∧ decode 0xFFFFFFFF#32 = .halt ∧
    decode 0xF1234567#32 = .halt := by decide

/-! ### Encoding (V1) -/

theorem test_encode_ldr_str : encode (.ldr 3 100#20) = 0x00006403#32 ∧ encode (.str 0 20#20) = 0x10001400#32 := by decide

theorem test_encode_alu : encode (.addReg 10 10 10) = 0x28000AAA#32 ∧ encode (.lsrImm 1 2 7#19) = 0xD0000721#32 ∧
    encode (.cmpImm 1 7#19) = 0x50000701#32 ∧ encode (.mvnReg 1 3) = 0xB8000301#32 := by decide

theorem test_encode_branch : encode (.b 1#16) = 0x60000100#32 ∧ encode (.bgt 7#16) = 0x71000700#32 := by decide

theorem test_encode_out_halt :
    encode (.outReg 2) = 0xE8000200#32 ∧ encode (.outImm 65#19) = 0xE0004100#32 ∧
    encode .halt = 0xF0000000#32 := by decide

/-! ### One step -/

/-- A run at its first boundary over a Memory of 16 words that holds `words` from address 0. -/
def running (words : List Word) : State :=
  { State.cleared 15#32 [] with
    mem := (Memory.cleared 15#32).loadFrom 0 words
    status := .running
    cancel := some false }

/-- What a step leaves meets `p`. -/
def after (o : Host.Outcome State Fault Refusal) (p : State → Bool) : Bool :=
  match o with
  | .next s => p s
  | .fault _ => false
  | .refused _ => false

/-- The state a step leaves, where it leaves one. -/
def next (s : State) : State :=
  match step s with
  | .next t => t
  | .fault _ => s
  | .refused _ => s

/-- Registers 1 and 2 of `s` set. -/
def withRegs (s : State) (r1 r2 : Word) : State := (s.setReg 1 r1).setReg 2 r2

/-- V3, the source's S4. -/
theorem test_addReg_wraps : after (step (withRegs (running [0x28000213#32]) 0xFFFFFFFF#32 0x00000001#32))
    (fun t => t.reg 3 == 0x00000000#32 && t.aluRes == 0x00000000#32 && t.pc == 1#32 && t.aluA == 0xFFFFFFFF#32 &&
    t.aluB == 1#32 && t.flags == 0#32) = true := by decide

/-- V3. -/
theorem test_addImm_largest : after (step (withRegs (running [0x27FFFF13#32]) 0x0001E240#32 0#32))
    (fun t => t.reg 3 == 0x0009E23F#32 && t.aluRes == 0x0009E23F#32 && t.pc == 1#32) = true := by decide

/-- V3. -/
theorem test_subReg_below_zero : after (step (withRegs (running [0x38000213#32]) 0x00000003#32 0x00000005#32))
    (fun t => t.reg 3 == 0xFFFFFFFE#32 && t.aluRes == 0xFFFFFFFE#32 && t.pc == 1#32) = true := by decide

/-- V3. -/
theorem test_subImm_wraps : after (step (withRegs (running [0x30000113#32]) 0x00000000#32 0#32))
    (fun t => t.reg 3 == 0xFFFFFFFF#32 && t.aluRes == 0xFFFFFFFF#32 && t.pc == 1#32) = true := by decide

/-- V3. -/
theorem test_andReg : after (step (withRegs (running [0x88000213#32]) 0xFF00FF00#32 0x0FF00FF0#32))
    (fun t => t.reg 3 == 0x0F000F00#32 && t.aluRes == 0x0F000F00#32 && t.pc == 1#32) = true := by decide

/-- V3. -/
theorem test_andImm_clears_top : after (step (withRegs (running [0x87FFFF13#32]) 0xFFFFFFFF#32 0#32))
    (fun t => t.reg 3 == 0x0007FFFF#32 && t.aluRes == 0x0007FFFF#32 && t.pc == 1#32) = true := by decide

/-- V3. -/
theorem test_orrReg : after (step (withRegs (running [0x98000213#32]) 0xFF00FF00#32 0x0FF00FF0#32))
    (fun t => t.reg 3 == 0xFFF0FFF0#32 && t.aluRes == 0xFFF0FFF0#32 && t.pc == 1#32) = true := by decide

/-- V3. -/
theorem test_orrImm : after (step (withRegs (running [0x90000113#32]) 0x80000000#32 0#32))
    (fun t => t.reg 3 == 0x80000001#32 && t.aluRes == 0x80000001#32 && t.pc == 1#32) = true := by decide

/-- V3. -/
theorem test_eorReg : after (step (withRegs (running [0xA8000213#32]) 0xFF00FF00#32 0x0FF00FF0#32))
    (fun t => t.reg 3 == 0xF0F0F0F0#32 && t.aluRes == 0xF0F0F0F0#32 && t.pc == 1#32) = true := by decide

/-- V3. -/
theorem test_eorImm : after (step (withRegs (running [0xA7FFFF13#32]) 0xFFFFFFFF#32 0#32))
    (fun t => t.reg 3 == 0xFFF80000#32 && t.aluRes == 0xFFF80000#32 && t.pc == 1#32) = true := by decide

/-- V4. -/
theorem test_lslReg_top_lost : after (step (withRegs (running [0xC8000213#32]) 0x80000001#32 0x00000001#32))
    (fun t => t.reg 3 == 0x00000002#32 && t.aluRes == 0x00000002#32 && t.pc == 1#32) = true := by decide

/-- V4, D7. -/
theorem test_lslReg_whole_word_amount : after (step (withRegs (running [0xC8000213#32]) 0x00000001#32 0xFFFFFFFF#32))
    (fun t => t.reg 3 == 0x00000000#32 && t.aluRes == 0x00000000#32 && t.pc == 1#32) = true := by decide

/-- V4. -/
theorem test_lslImm_31 : after (step (withRegs (running [0xC0001F13#32]) 0xFFFFFFFF#32 0#32))
    (fun t => t.reg 3 == 0x80000000#32 && t.aluRes == 0x80000000#32 && t.pc == 1#32) = true := by decide

/-- V4, D7. -/
theorem test_lslImm_32 : after (step (withRegs (running [0xC0002013#32]) 0x00000001#32 0#32))
    (fun t => t.reg 3 == 0x00000000#32 && t.aluRes == 0x00000000#32 && t.pc == 1#32) = true := by decide

/-- V4. -/
theorem test_lsrReg_zero_enters : after (step (withRegs (running [0xD8000213#32]) 0x80000001#32 0x00000001#32))
    (fun t => t.reg 3 == 0x40000000#32 && t.aluRes == 0x40000000#32 && t.pc == 1#32) = true := by decide

/-- V4, D7. -/
theorem test_lsrReg_32 : after (step (withRegs (running [0xD8000213#32]) 0xFFFFFFFF#32 0x00000020#32))
    (fun t => t.reg 3 == 0x00000000#32 && t.aluRes == 0x00000000#32 && t.pc == 1#32) = true := by decide

/-- V4. -/
theorem test_lsrImm_28 : after (step (withRegs (running [0xD0001C13#32]) 0xFF000000#32 0#32))
    (fun t => t.reg 3 == 0x0000000F#32 && t.aluRes == 0x0000000F#32 && t.pc == 1#32) = true := by decide

/-- V4, D7. -/
theorem test_lsrImm_largest : after (step (withRegs (running [0xD7FFFF13#32]) 0x80000000#32 0#32))
    (fun t => t.reg 3 == 0x00000000#32 && t.aluRes == 0x00000000#32 && t.pc == 1#32) = true := by decide

/-- V3; the ignored Rn bits are not 0. -/
theorem test_movReg : after (step (withRegs (running [0x48000213#32]) 0x11111111#32 0xDEADBEEF#32))
    (fun t => t.reg 3 == 0xDEADBEEF#32 && t.aluRes == 0xDEADBEEF#32 && t.pc == 1#32 && t.aluA == 0#32) = true := by decide

/-- V3. -/
theorem test_movImm : after (step (withRegs (running [0x47FFFF03#32]) 0x11111111#32 0#32))
    (fun t => t.reg 3 == 0x0007FFFF#32 && t.aluRes == 0x0007FFFF#32 && t.pc == 1#32) = true := by decide

/-- V3. -/
theorem test_mvnReg : after (step (withRegs (running [0xB8000203#32]) 0#32 0xFF000000#32))
    (fun t => t.reg 3 == 0x00FFFFFF#32 && t.aluRes == 0x00FFFFFF#32 && t.pc == 1#32) = true := by decide

/-- 42_alu.md R191. -/
theorem test_mvnImm_zero : after (step (withRegs (running [0xB0000003#32]) 0#32 0#32))
    (fun t => t.reg 3 == 0xFFFFFFFF#32 && t.aluRes == 0xFFFFFFFF#32 && t.pc == 1#32) = true := by decide

/-- 42_alu.md R195: `add r1, r1, r1`. -/
theorem test_addReg_doubles :
    after (step (withRegs (running [0x28000111#32]) 0x80000003#32 0#32)) (fun t => t.reg 1 == 6#32) = true := by decide

/-- V5: the comparison is unsigned. -/
theorem test_cmpReg_unsigned : after (step (withRegs (running [0x58000201#32]) 0x80000000#32 0x7FFFFFFF#32))
    (fun t => t.flags == 21#32 && t.aluRes == 21#32 && t.aluA == 0x80000000#32 && t.reg 1 == 0x80000000#32) = true := by decide

/-- V5. -/
theorem test_cmpReg_less : after (step (withRegs (running [0x58000201#32]) 0#32 0xFFFFFFFF#32))
    (fun t => t.flags == 19#32 && t.aluRes == 19#32 && t.aluA == 0#32 && t.reg 1 == 0#32) = true := by decide

/-- V5. -/
theorem test_cmpImm_greater : after (step (withRegs (running [0x50000701#32]) 9#32 0#32))
    (fun t => t.flags == 21#32 && t.aluRes == 21#32 && t.aluA == 9#32 && t.reg 1 == 9#32) = true := by decide

/-- V5. -/
theorem test_cmpImm_equal : after (step (withRegs (running [0x50000501#32]) 5#32 0#32))
    (fun t => t.flags == 24#32 && t.aluRes == 24#32 && t.aluA == 5#32 && t.reg 1 == 5#32) = true := by decide

/-- Where a branch word at address 0 leaves the PC with FLAGS = `f`. -/
def branchTo (w f : Word) : Bool → Bool := fun taken =>
  after (step ((running [w]).setFlags f)) (fun t => t.pc == (if taken then 7#32 else 1#32) && t.flags == f)

/-- V5, every row. -/
theorem test_b : branchTo 0x60000700#32 24#32 true = true ∧
    branchTo 0x60000700#32 21#32 true = true ∧
    branchTo 0x60000700#32 19#32 true = true ∧
    branchTo 0x60000700#32 0#32 true = true := by decide

/-- V5, every row. -/
theorem test_beq : branchTo 0x70000700#32 24#32 true = true ∧
    branchTo 0x70000700#32 21#32 false = true ∧
    branchTo 0x70000700#32 19#32 false = true ∧
    branchTo 0x70000700#32 0#32 false = true := by decide

/-- V5, every row. -/
theorem test_bgt : branchTo 0x71000700#32 24#32 false = true ∧
    branchTo 0x71000700#32 21#32 true = true ∧
    branchTo 0x71000700#32 19#32 false = true ∧
    branchTo 0x71000700#32 0#32 false = true := by decide

/-- V5, every row. -/
theorem test_blt : branchTo 0x72000700#32 24#32 false = true ∧
    branchTo 0x72000700#32 21#32 false = true ∧
    branchTo 0x72000700#32 19#32 true = true ∧
    branchTo 0x72000700#32 0#32 false = true := by decide

/-- V5, every row. -/
theorem test_bne : branchTo 0x73000700#32 24#32 false = true ∧
    branchTo 0x73000700#32 21#32 true = true ∧
    branchTo 0x73000700#32 19#32 true = true ∧
    branchTo 0x73000700#32 0#32 false = true := by decide

/-- V6. -/
theorem test_ldr : after (step (running [0x00000800#32, 0#32, 0#32, 0#32, 0#32, 0#32, 0#32, 0#32, 300#32]))
    (fun t => t.reg 0 == 300#32 && t.pc == 1#32 && t.busAddr == 8#32 && t.busData == 300#32 &&
    t.busCtrl == .idle) = true := by decide

/-- V6: slot 12 is plain storage (10_state.md R22, D4); here the LDR loads its own word. -/
theorem test_ldr_unnamed_slot :
    after (step (running [0x0000000C#32])) (fun t => t.reg 12 == 12#32 &&
    t.slot 12 == 12#32) = true := by decide

/-- V6. -/
theorem test_ldr_outside :
    after (step (running [0x00001000#32])) (fun t => t.status == .faulted ⟨.outOfRange, 16#32, .execute⟩ &&
    t.reg 0 == 0#32 && t.pc == 1#32 && t.cir == 0x00001000#32 && t.busAddr == 16#32 && t.busData == 0x00001000#32 &&
    t.busCtrl == .read && t.phase == .execute) = true := by decide

/-- V6, the highest address. -/
theorem test_str :
    after (step ((running [0x10000F07#32]).setReg 7 0xABCD#32)) (fun t => t.mem.get 15 == 0xABCD#32 &&
    t.reg 7 == 0xABCD#32 &&
    t.pc == 1#32 && t.busAddr == 15#32 && t.busData == 0xABCD#32 && t.busCtrl == .idle) = true := by decide

/-- V6: the store of 0 over its own instruction; the list of cells is canonical again. -/
theorem test_str_own_word :
    after (step (running [0x10000000#32])) (fun t => t.mem == Memory.cleared 15#32 &&
    t.pc == 1#32 && t.status == .running) = true := by decide

/-- V6. -/
theorem test_str_outside :
    after (step ((running [0x10001001#32]).setReg 1 5#32)) (fun t => t.status == .faulted ⟨.outOfRange, 16#32, .execute⟩ &&
    t.mem == (running [0x10001001#32]).mem && t.busAddr == 16#32 && t.busData == 5#32 &&
    t.busCtrl == .write) = true := by decide

/-- P4: the word a STR puts at the next address is what runs there. -/
theorem test_str_seen_by_fetch :
    after (step (next (next (running [0x00000300#32, 0x10000200#32, 0xE0000100#32, 0xE0000200#32]))))
    (fun t => t.outLog == [2#8]) = true := by decide

/-- V7. -/
theorem test_outReg :
    after (step ((running [0xE8000000#32]).setReg 0 0x12345678#32)) (fun t => t.outLog == [0x78#8] &&
    !t.outBusy && t.aluRes == 0#32) = true := by decide

/-- V7. -/
theorem test_outImm :
    after (step { running [0xE0012C00#32] with outLog := [1#8] }) (fun t => t.outLog == [1#8, 44#8] && !t.outBusy) = true := by decide

/-- V8. -/
theorem test_halt :
    after (step (running [0xF1234567#32])) (fun t => t.status == .halted && t.pc == 1#32 &&
    t.cir == 0xF1234567#32 && t.phase == .fetch) = true := by decide

/-- V9. -/
theorem test_bxxLow :
    after (step (running [0x74000000#32])) (fun t => t.status == .faulted ⟨.illegalInstruction, 0x74000000#32, .execute⟩ &&
    t.pc == 1#32 && t.ir == some 0x74000000#32 && t.busAddr == 0#32 && t.busData == 0x74000000#32 &&
    t.busCtrl == .idle) = true := by decide

/-- V9. -/
theorem test_bxxHigh :
    after (step (running [0x7FFFFFFF#32])) (fun t => t.status == .faulted ⟨.illegalInstruction, 0x7FFFFFFF#32, .execute⟩ &&
    t.pc == 1#32) = true := by decide

/-- V9, 60_exceptions.md R244. -/
theorem test_fetch_outside :
    after (step { running [7#32] with pc := 16#32, cir := 9#32 }) (fun t => t.status == .faulted ⟨.outOfRange, 16#32, .fetch⟩ &&
    t.pc == 16#32 && t.cir == 9#32 && t.busAddr == 16#32 && t.busCtrl == .read && t.phase == .fetch) = true := by decide

/-! ### The host interface -/

/-- S8, its first word, as the first instruction after reset. -/
theorem test_word_runs_from_reset :
    after (step (State.reset.withFetchWord 32 0x40000500)) (fun t => t.reg 0 == 5#32 &&
    t.aluB == 5#32) = true := by decide

/-- S5; a word is 32 bits (30_encoding.md R90). -/
theorem test_table_word :
    decodeTableWord 32 0x28000210 = some (.addReg 0 1 2) ∧
    decodeTableWord 8 0x07 = some (.ldr 7 0#20) ∧ decodeTableWord 40 0 = none := by decide

/-- The words of the program S8. -/
def programS8 : List Word := [0x40000500#32, 0x40000301#32, 0x28000102#32, 0xE8000200#32, 0xF0000000#32]

/-- R284 and S8: load, run, and the first instruction, whatever the size of Memory. -/
theorem test_launch_first_instruction :
    after (step (next (State.launch [0x40000500#32]))) (fun t => t.reg 0 == 5#32) = true := by decide

/-- The machine of 16 words before S8's third instruction, a cancel arriving at the check point `k` check points ahead. -/
def cancelAt (k : Nat) : State :=
  { running programS8 with
    regs := ((Vector.replicate 16 0#32).set 0 5#32).set 1 3#32
    pc := 2#32
    cir := 0x40000301#32
    ir := some 0x40000301#32
    aluB := 3#32
    aluRes := 3#32
    agenda := List.replicate k [] ++ [[.cancel]] }

/-- The row of V11 a cut leaves: r2, ALU_A, ALU_RES, and the phase. -/
def cutRow (k : Nat) (r2 a r : Word) (ph : Phase) : Bool :=
  after (step (cancelAt k)) (fun t => t.status == .cancelled && t.reg 2 == r2 && t.aluA == a && t.aluB == 3#32 &&
    t.aluRes == r &&
    t.pc == 3#32 && t.cir == 0x28000102#32 && t.phase == ph && t.inPhase == none)

/-- V11, the boundary before EXECUTE and the waits a1, a3, a5, a7: FETCH has three check points and DECODE three before them. -/
theorem test_cancel_in_execute : cutRow 6 0#32 0#32 3#32 .execute = true ∧ cutRow 7 0#32 0#32 3#32 .execute = true ∧
    cutRow 8 0#32 5#32 3#32 .execute = true ∧ cutRow 9 0#32 5#32 8#32 .execute = true ∧
    cutRow 10 8#32 5#32 8#32 .execute = true := by decide

/-- V11, its last paragraph: cut at b3 and at b5. -/
theorem test_cancel_in_fetch :
    after (step (cancelAt 1)) (fun t => t.status == .cancelled && t.pc == 2#32 &&
    t.cir == 0x40000301#32 && t.busAddr == 2#32 && t.busCtrl == .read) = true ∧
    after (step (cancelAt 2)) (fun t => t.busCtrl == .ready && t.busData == 0x28000102#32 && t.pc == 2#32) = true := by decide

/-- V11: a cut at o4 and at o6 (40_engine.md R155). -/
theorem test_cancel_in_out :
    after (step { running [0xE8000200#32] with agenda := List.replicate 8 [] ++ [[.cancel]] }) (fun t => t.outBusy && t.outLog == []) = true ∧
    after (step { running [0xE8000200#32] with agenda := List.replicate 9 [] ++ [[.cancel]] }) (fun t => t.outBusy &&
    t.outLog == [0#8]) = true := by decide

/-- Reset machine of 16 words whose host loads a HALT, pauses, runs and then steps three times, once at each boundary; FETCH and
DECODE have two waits each, where it does nothing. -/
def stepping : State :=
  State.cleared 15#32 [[.load [0xF0000000#32], .pause, .run], [.step], [], [], [.step], [], [], [.step]]

/-- V10, its stepping row. -/
theorem test_three_steps : after (step stepping) (fun t => t.status == .running && t.pc == 0#32 && t.paused) = true ∧
    after (step (next stepping)) (fun t => t.cir == 0xF0000000#32 && t.pc == 1#32 && t.phase == .decode) = true ∧
    after (step (next (next stepping))) (fun t => t.ir == some 0xF0000000#32 && t.phase == .execute) = true ∧
    after (step (next (next (next stepping)))) (fun t => t.status == .halted && t.paused) = true := by decide

/-- V10, its last row. -/
theorem test_load_too_long :
    (HostEvent.load (List.replicate 17 1#32)).apply (State.cleared 15#32 []) = State.cleared 15#32 [] := by decide

/-- 40_engine.md R142: a run that is in the poll when a step and a cancel reach it consumes the grant, then ends. -/
theorem test_step_and_cancel_in_poll :
    after (step { running [7#32] with paused := true, polling := true, agenda := [[.step, .cancel]] })
    (fun t => t.status == .cancelled && t.grants == 0 && t.paused && t.pc == 0#32) = true := by decide

/-- Log 7: a step sent while PAUSED is false leaves no grant. -/
theorem test_step_while_not_paused :
    after (step { running [7#32] with agenda := [[.step]] }) (fun t => t.grants == 0 && t.pc == 1#32) = true := by decide

/-- How many waits a list of micro-steps has. -/
def waits (ops : List Micro) : Nat := (ops.filter (fun op => match op with | .wait _ => true | _ => false)).length

/-- 70_reset_and_hazards.md R301. -/
theorem test_wait_counts :
    waits fetchOps = 2 ∧ waits decodeOps = 2 ∧ waits (ldrOps 0 0#20) = 4 ∧
    waits (strOps 0 0#20) = 4 ∧
    waits (executeOps (.addReg 0 0 0)) = 4 ∧ waits (executeOps (.b 0#16)) = 2 ∧ waits (outOps (.reg 0)) = 4 ∧
    waits haltOps = 1 := by decide

/-- 60_exceptions.md R263, 40_engine.md R143: at the last wait of DECODE the phase's end is told, unless the check finds the token. -/
theorem test_phase_notice :
    State.notices { running [7#32] with phase := .decode, inPhase := some ⟨[.wait .decode], {}⟩ } = [.phase .execute] ∧
    State.notices { running [7#32] with phase := .decode, inPhase := some ⟨[.wait .decode], {}⟩, agenda := [[.cancel]] } = [] ∧
    (State.cleared 15#32 [[.run]]).notices = [.phase .fetch] := by decide

/-- V12, step f0. -/
theorem test_fetch_notice : (tick (running [0xF0000000#32])).notices = [.fetchAt 0#32] := by decide

/-! ### The assembler (V13) -/

theorem test_asm_immediate : Asm.assemble "halt\nmov r0, #524288".toList = .error ⟨2, .immediateOutOfRange⟩ := by decide

theorem test_asm_address : Asm.assemble "ldr r0, 1048576".toList = .error ⟨1, .addressOutOfRange⟩ := by decide

theorem test_asm_literal : Asm.assemble "#4294967296".toList = .error ⟨1, .literalOutOfRange⟩ ∧
    Asm.assemble "#4294967295".toList = .ok ⟨[0xFFFFFFFF#32], [(0, 1)]⟩ := by decide

theorem test_asm_unknown_label : Asm.assemble "b nowhere".toList = .error ⟨1, .unknownLabel⟩ ∧
    Asm.assemble "ldr r0, nowhere".toList = .error ⟨1, .unknownLabel⟩ := by decide

theorem test_asm_invalid : Asm.assemble "nop".toList = .error ⟨1, .invalidInstruction "nop".toList⟩ ∧
    Asm.assemble "loop: halt".toList = .error ⟨1, .invalidInstruction "loop: halt".toList⟩ := by decide

/-- 30_encoding.md R122 c: between the mnemonic and its operands stand spaces or tabs only; a line may end in a carriage return. -/
theorem test_asm_blanks :
    Asm.assemble "mov\rr0,\r#5".toList = .error ⟨1, .invalidInstruction "mov\rr0,\r#5".toList⟩ ∧
    Asm.assemble "mov\t r0 ,\t#5\r\nhalt".toList = .ok ⟨[0x40000500#32, 0xF0000000#32], [(0, 1), (1, 2)]⟩ := by decide

/-- Log 24: an unknown mnemonic with one operand is reported by the fall-through. -/
theorem test_asm_unknown_mnemonic :
    Asm.assemble "loop:\nfoo loop".toList = .error ⟨2, .invalidInstruction "foo loop".toList⟩ := by decide

theorem test_asm_register : Asm.assemble "mov r11, #1".toList = .error ⟨1, .registerOutOfRange⟩ := by decide

theorem test_asm_duplicate : Asm.assemble "a:\na:\nhalt".toList = .error ⟨2, .duplicateLabel⟩ := by decide

/-- 30_encoding.md R122 g. -/
theorem test_asm_label_named_b :
    Asm.assemble "ldr r1, b\nhalt\nb:\n#7".toList = .ok ⟨[0x00000201#32, 0xF0000000#32, 7#32], [(0, 1), (1, 2), (2, 4)]⟩ := by decide

/-! ### Witnesses: the hypotheses of the obligations are met -/

/-- The machine of 16 words with nothing running. -/
def idleMachine : State := State.cleared 15#32 []

/-- A run at the wait b3 of its first FETCH. -/
def inFetch : State :=
  { running [7#32] with inPhase := some ⟨fetchOps.drop 3, {}⟩, busCtrl := .read }

/-- A paused run held at the boundary before DECODE. -/
def held : State := { running [7#32] with phase := .decode, paused := true }

/-- The same, in the poll. -/
def polled : State := { held with polling := true }

theorem test_witness_DecodeEncodeRoundTrip :
    wellFormed (.bxxLow 4#4) = true ∧
    wellFormed (.ldr 15 0xFFFFF#20) = true := by decide

theorem test_witness_IgnoredBitsDoNotMatter :
    0x2FFFF210#32 &&& meaningfulMask 0x28000210#32 = 0x28000210#32 &&& meaningfulMask 0x28000210#32 := by decide

theorem test_witness_EveryWordMatchesOneRow :
    0x7FFFFFFF#32 &&& (tableRow (.bxxHigh 0#4)).1 = (tableRow (.bxxHigh 0#4)).2 := by decide

theorem test_witness_HaltWords : (0xFFFFFFFF#32).toNat / 2 ^ 28 = 15 ∧ decode 0xFFFFFFFF#32 = .halt := by decide

theorem test_witness_DataRunsAsInstructions : (running []).quiet = true ∧ (running []).pc.toNat < (running []).mem.size ∧
    (running []).mem = Memory.cleared (running []).mem.last ∧
    after (exec (decode 7#32) ((running [7#32]).readyToExecute 7#32)) (fun _ => true) = true := by decide

theorem test_witness_ResetStopsThenClears : State.atCheckPoint { running [7#32] with agenda := [[.reset]] } = true ∧
    State.atCheckPoint { inFetch with agenda := [[.reset]] } = true := by decide

theorem test_witness_ResetClearsIdleMachine :
    idleMachine.status ≠ .running ∧
    (State.cleared 15#32 [[.reset]]).agenda = [[.reset]] := by decide

/-- The longest program that fits, the shortest that does not, and an active run. -/
theorem test_witness_LoadWritesProgram :
    idleMachine.mem.wf = true ∧ idleMachine.status ≠ .running ∧
    (List.replicate 16 1#32).length ≤ idleMachine.mem.size ∧
    15 < (List.replicate 16 1#32).length ∧ idleMachine.mem.size < (List.replicate 17 1#32).length ∧
    (running []).mem.wf = true ∧ (running []).status = .running := by decide

/-- A program of one word fits whatever the size of Memory. -/
theorem test_witness_LaunchState : ([0xF0000000#32] : List Word).length ≤ Config.memSize := Nat.le_add_left 1 _

theorem test_witness_RunContinuesFromState :
    State.status { idleMachine with status := .halted, agenda := [[.run]] } ≠ .running := by decide

/-- At a boundary, in the poll, and at a wait. -/
theorem test_witness_RunReplacesRun :
    State.atCheckPoint { held with agenda := [[.run]] } = true ∧ held.pollOk = true ∧
    State.atCheckPoint { polled with agenda := [[.run]] } = true ∧ polled.pollOk = true ∧
    State.atCheckPoint { inFetch with agenda := [[.run]] } = true ∧ inFetch.pollOk = true := by decide

theorem test_witness_StoppedMachineStays : idleMachine.status ≠ .running ∧ idleMachine.agenda = [] := by decide

theorem test_witness_CancelledRunMutatesNothing :
    State.atCheckPoint { inFetch with cancel := some true } = true ∧ State.pollOk { inFetch with cancel := some true } = true ∧
    inFetch.agenda = [] ∧
    State.atCheckPoint { inFetch with agenda := [[.cancel]] } = true ∧
    State.atCheckPoint { polled with agenda := [[.cancel]] } = true ∧
    State.pollOk { polled with agenda := [[.cancel]] } = true := by decide

theorem test_witness_CancelTokenRules :
    (running []).status = .running ∧ idleMachine.status ≠ .running ∧
    HostEvent.pause.needsStop = false ∧
    State.cancel { running [] with cancel := some true } = some true ∧
    State.atCheckPoint { running [] with cancel := some true } = true ∧
    State.pollOk { running [] with cancel := some true } = true ∧ (running []).agenda = [] := by decide

theorem test_witness_PauseHoldsAtBoundary :
    held.status = .running ∧ held.inPhase = none ∧ held.paused = true ∧
    held.grants = 0 ∧ held.cancel ≠ some true ∧ held.agenda = [] := by decide

/-- Just arrived at the boundary, and in the poll. -/
theorem test_witness_PauseHoldsAtBoundary_order :
    State.agenda { held with agenda := [[.step, .cancel]] } = [[.step, .cancel]] ∧ held.polling = false ∧
    polled.status = .running ∧ polled.inPhase = none ∧ polled.paused = true ∧ polled.grants = 0 ∧
    polled.polling = true := by decide

theorem test_witness_ResumeStartsDuePhase :
    State.status { held with agenda := [[.resume]] } = .running ∧
    held.inPhase = none ∧ held.paused = true ∧ held.grants = 0 ∧
    held.cancel ≠ some true := by decide

/-- A paused run and one that is not, and the uninterrupted instruction. -/
theorem test_witness_ThreeGrantsAreOneInstruction :
    held.paused = true ∧ (running [7#32]).paused = false ∧
    (running [7#32]).quiet = true ∧
    (running [7#32]).pc.toNat < (running [7#32]).mem.size ∧
    after (step (running [7#32])) (fun _ => true) = true := by decide

theorem test_witness_SlotReadsRegisterFile :
    idleMachine.ir = none ∧
    State.ir { idleMachine with ir := some 7#32 } = some 7#32 := by decide

theorem test_witness_StepRunsDecodedInstruction :
    (running [0x74000000#32]).quiet = true ∧
    (running [0x74000000#32]).pc.toNat < (running [0x74000000#32]).mem.size := by decide

/-- Inside Memory and outside. -/
theorem test_witness_MicroStepsComposeToInstruction :
    (running [7#32]).quiet = true ∧
    State.quiet { running [] with pc := 16#32 } = true := by decide

/-- The first address outside. -/
theorem test_witness_FetchOutOfRange :
    State.quiet { running [] with pc := 16#32 } = true ∧
    State.mem { running [] with pc := 16#32 } = Memory.cleared 15#32 ∧
    (Memory.cleared 15#32).size ≤ (16#32).toNat := by decide

/-- The last address inside, the first outside, and a step. -/
theorem test_witness_PcAdvance :
    (running [0x70000700#32]).quiet = true ∧
    after (step (running [0x70000700#32])) (fun t => t.pc == 1#32) = true ∧
    State.quiet { running [] with pc := 15#32 } = true ∧ (15#32).toNat < (running []).mem.size ∧
    State.quiet { running [] with pc := 16#32 } = true ∧ (running []).mem.size ≤ (16#32).toNat := by decide

theorem test_witness_CirHoldsFetchedWord :
    (running [7#32]).pc.toNat < (running [7#32]).mem.size ∧
    (running [7#32]).mem.size ≤ (State.pc { running [7#32] with pc := 16#32 }).toNat ∧
    after (exec (.b 1#16) (running [])) (fun _ => true) = true ∧ HostEvent.run ≠ .reset := by decide

/-- Between instructions, in the middle of a phase, held, in the poll, and idle. -/
theorem test_witness_StepKeepsLegal :
    (running [7#32]).legal = true ∧
    after (step (running [7#32])) (fun _ => true) = true ∧ inFetch.legal = true ∧
    after (step inFetch) (fun _ => true) = true ∧ held.legal = true ∧ polled.legal = true ∧
    after (step polled) (fun _ => true) = true ∧ idleMachine.legal = true := by decide

theorem test_witness_LegalStateAlwaysSteps :
    inFetch.legal = true ∧
    State.legal { running [] with pc := 16#32 } = true := by decide

theorem test_witness_MemorySizeIsFixed :
    after (step (State.cleared 15#32 [[.reset]])) (fun t => t.mem.size == 16) = true := by decide

theorem test_witness_OutputOnlyGrows :
    (running [0xE0004100#32]).quiet = true ∧
    after (step (running [0xE0004100#32])) (fun t => t.outLog == [65#8]) = true := by decide

theorem test_witness_FlagsRules :
    (running [0x50000001#32]).legal = true ∧
    after (step (running [0x50000001#32])) (fun t => t.flags == 24#32) = true ∧
    (Instr.addReg 0 0 0).family ≠ .compare ∧ after (exec (.addReg 0 0 0) (running [])) (fun _ => true) = true ∧
    (running []).flags = 0#32 := by decide

theorem test_witness_BranchBeforeCompareFallsThrough :
    (running []).flags = 0#32 ∧
    Instr.bne 7#16 ∈ [Instr.beq 7#16, .bgt 7#16, .blt 7#16, .bne 7#16] ∧
    after (exec (.bne 7#16) (running [])) (fun _ => true) = true := by decide

/-- An instruction that is no CMP. -/
theorem test_witness_BranchBeforeCompareFallsThrough_frame :
    (∀ rd rm, Instr.bne 7#16 ≠ .cmpReg rd rm) ∧
    (∀ rd imm, Instr.bne 7#16 ≠ .cmpImm rd imm) := by
  constructor <;> intro _ _ h <;> cases h

theorem test_witness_FlagBitsAfterCompare :
    (∃ rm : Reg, Instr.cmpReg 1 2 = .cmpReg 1 rm ∧
    (5#32) = State.reg (withRegs (running []) 0#32 5#32) rm) ∧
    (running []).legal = true := And.intro ⟨2, rfl, by decide⟩ (by decide)

theorem test_witness_FlagBitsAfterCompare_imm :
    ∃ imm : BitVec 19, Instr.cmpImm 1 5#19 = .cmpImm 1 imm ∧
    (5#32) = BitVec.ofNat 32 imm.toNat := ⟨5#19, rfl, rfl⟩

/-- A target one above the last address. -/
theorem test_witness_BranchTargetIsCheckedByFetch : (running []).quiet = true ∧ (Instr.b 16#16).family = .branch ∧
    after (exec (.b 16#16) (running [])) (fun t => decide (t.mem.size ≤ t.pc.toNat)) = true := by decide

/-- The last address inside. -/
theorem test_witness_LoadCompletes : (15#20).toNat < idleMachine.mem.size := by decide

theorem test_witness_StoreCompletes : idleMachine.mem.wf = true ∧ (15#20).toNat < idleMachine.mem.size := by decide

/-- The first address outside. -/
theorem test_witness_DataAccessOutOfRange : idleMachine.mem.size ≤ (16#20).toNat := by decide

theorem test_witness_BoundsCheck :
    (running []).status = .running ∧ (running []).mem.size ≤ (16#20).toNat ∧
    (15#20).toNat < (running []).mem.size ∧
    (running []).mem.size ≤ (State.pc { running [] with pc := 16#32 }).toNat := by decide

theorem test_witness_LoadSeesLatestStore :
    idleMachine.mem.wf = true ∧ (15#20).toNat < idleMachine.mem.size ∧
    (0#20).toNat < idleMachine.mem.size ∧ (0#20) ≠ 15#20 := by decide

theorem test_witness_FetchSeesStore :
    idleMachine.mem.wf = true ∧ (0#20).toNat < idleMachine.mem.size ∧
    idleMachine.pc.toNat = (0#20).toNat := by decide

theorem test_witness_UnassignedBranchFaults :
    (running [0x7FFFFFFF#32]).quiet = true ∧
    (running [0x7FFFFFFF#32]).pc.toNat < (running [0x7FFFFFFF#32]).mem.size ∧
    (decodeFields ((running [0x7FFFFFFF#32]).mem.get 0)).mnemonic = .bxx := by decide

theorem test_witness_RegisterFrame :
    after (exec (.addReg 1 2 3) idleMachine) (fun _ => true) = true ∧
    (Instr.addReg 1 2 3).destination ≠ some 2 := by decide

theorem test_witness_SpecialStateFrame :
    after (exec (.outReg 1) idleMachine) (fun _ => true) = true ∧
    (Instr.outReg 1).family ≠ .branch ∧ (Instr.b 1#16).family ≠ .compare ∧
    (Instr.outReg 1).family ≠ .alu ∧ (Instr.outReg 1).family ≠ .compare ∧ (Instr.b 1#16).family ≠ .output ∧
    (Instr.outReg 1).family ≠ .stop ∧
    (Instr.outReg 1).family ≠ .unassigned ∧ (Instr.outReg 1).family ≠ .load ∧ (Instr.outReg 1).family ≠ .store := by decide

theorem test_witness_MemoryFrame :
    idleMachine.mem.wf = true ∧
    after (exec (.str 1 15#20) idleMachine) (fun _ => true) = true ∧ (14 : Nat) ≠ (15#20).toNat ∧
    after (exec (.ldr 1 15#20) idleMachine) (fun _ => true) = true ∧ (Instr.ldr 1 15#20).family ≠ .store := by decide

/-- A micro-step after which the phase goes on. -/
def goesOn (r : MicroResult) : Bool :=
  match r with
  | .goes _ _ => true
  | .ends _ => false

theorem test_witness_NoticesTellEveryWrite :
    goesOn (Micro.run .execute idleMachine {} (.operands (.reg 1) (.imm 5#19))) = true ∧
    Notice.slot 20 5#32 ∈ Micro.notices idleMachine {} (.operands (.reg 1) (.imm 5#19)) ∧
    goesOn (Micro.run .fetch idleMachine {} (.busAddr .pc)) = true ∧
    Notice.busAddr 0#32 ∈ Micro.notices idleMachine {} (.busAddr .pc) ∧
    goesOn (Micro.run .fetch idleMachine {} .busData) = true ∧ Notice.busData 0#32 ∈ Micro.notices idleMachine {} .busData ∧
    goesOn (Micro.run .fetch idleMachine {} (.busCtrl .read)) = true ∧
    Notice.busCtrl .read ∈ Micro.notices idleMachine {} (.busCtrl .read) ∧
    goesOn (Micro.run .execute idleMachine {} (.outBusy true)) = true ∧
    Notice.outBusy true ∈ Micro.notices idleMachine {} (.outBusy true) := by decide

/-- A micro-step that notifies nothing. -/
theorem test_witness_NoticesTellEveryWrite_silent :
    goesOn (Micro.run .execute idleMachine {} .readFlags) = true ∧
    Micro.notices idleMachine {} .readFlags = [] := by decide

/-- At the last wait of a phase, and at its first. -/
theorem test_witness_NoticesTellEveryWrite_phase :
    let last := { running [7#32] with phase := .decode, inPhase := some ⟨[.wait .decode], {}⟩ }
    let first := { running [7#32] with phase := .decode, inPhase := some ⟨decodeOps, {}⟩ }
    last.status = .running ∧ last.inPhase ≠ none ∧ (tick last).status = .running ∧ (tick last).inPhase = none ∧
    (tick last).phase ≠ last.phase ∧ Notice.phase .execute ∈ last.notices ∧
    first.status = .running ∧ (tick first).status = .running ∧ (tick first).inPhase ≠ none := by decide

/-- A wait whose check finds the token set; and the reset of a machine with no run active. -/
theorem test_witness_NoticesTellEveryWrite_host :
    let cut := { running [7#32] with phase := .decode, inPhase := some ⟨[.wait .decode], {}⟩, agenda := [[.cancel]] }
    cut.status = .running ∧ (tick cut).status = .cancelled ∧
    Notice.slot 16 0#32 ∈ (State.cleared 15#32 [[.reset]]).notices ∧
    Notice.slot 0 1#32 ∉ (State.cleared 15#32 [[.reset]]).notices := by decide

theorem test_witness_FetchNotificationTellsPc : (running [7#32]).quiet = true := by decide

/-- A label line, an instruction line and a data line. -/
theorem test_witness_AssembledWordsDecode :
    Asm.assemble "a:\nmov r10, #5\n#7".toList = .ok ⟨[0x4000050A#32, 7#32], [(0, 2), (1, 3)]⟩ ∧
    Asm.bindLabels (Asm.sourceLines "a:\nmov r10, #5\n#7".toList) 0 [] = .ok [("a".toList, 0)] ∧
    Asm.assembleItems "a:\nmov r10, #5\n#7".toList = .ok [(.code (.movImm 10 5#19), 2), (.data 7#32, 3)] ∧
    Asm.sourceLines "a:\nmov r10, #5\n#7".toList = [⟨1, "a:".toList⟩, ⟨2, "mov r10, #5".toList⟩, ⟨3, "#7".toList⟩] ∧
    Asm.labelOf "a:".toList = some "a".toList ∧
    Operand.reg 10 ∈ (Instr.movImm 10 5#19).operands := by decide

end Sys2Proof.Tests
end

section
/-! SUPPORT. What EXECUTE can do, once: the effect of every instruction by family, and what one uninterrupted step is. -/

namespace Sys2Proof.Machine

/-- Everything EXECUTE can do to a state, one constructor for each way a family of 40_engine.md R150 can go. -/
inductive Effect (i : Instr) (s : State) : State → Prop where
  | alu (rd : Reg) (a b r : Word) (family : i.family = .alu) (destination : i.destination = some rd) :
      Effect i s { s with regs := s.regs.set rd r, aluA := a, aluB := b, aluRes := r }
  | compare (a b : Word) (family : i.family = .compare) :
      Effect i s { s with flags := compareFlags a b, aluA := a, aluB := b, aluRes := compareFlags a b }
  | branch (target : Word) (family : i.family = .branch) : Effect i s { s with pc := target }
  | unassigned (family : i.family = .unassigned) :
      Effect i s { s with status := .faulted ⟨.illegalInstruction, s.cir, .execute⟩ }
  | output (b : Byte) (family : i.family = .output) :
      Effect i s { s with outLog := s.outLog ++ [b], outBusy := false }
  | stop (family : i.family = .stop) : Effect i s { s with status := .halted, phase := .fetch }
  | load (rd : Reg) (ea : BitVec 20) (instr : i = .ldr rd ea) (inside : ea.toNat < s.mem.size) :
      Effect i s { s with
        regs := s.regs.set rd (s.mem.get ea.toNat),
        busAddr := ea.setWidth 32, busData := s.mem.get ea.toNat, busCtrl := .idle }
  | loadFault (rd : Reg) (ea : BitVec 20) (instr : i = .ldr rd ea) (outside : s.mem.size ≤ ea.toNat) :
      Effect i s { s with
        busAddr := ea.setWidth 32, busCtrl := .read,
        status := .faulted ⟨.outOfRange, ea.setWidth 32, .execute⟩ }
  | store (rd : Reg) (ea : BitVec 20) (instr : i = .str rd ea) (inside : ea.toNat < s.mem.size) :
      Effect i s { s with
        mem := s.mem.put ea.toNat (s.reg rd),
        busAddr := ea.setWidth 32, busData := s.reg rd, busCtrl := .idle }
  | storeFault (rd : Reg) (ea : BitVec 20) (instr : i = .str rd ea) (outside : s.mem.size ≤ ea.toNat) :
      Effect i s { s with
        busAddr := ea.setWidth 32, busData := s.reg rd, busCtrl := .write,
        status := .faulted ⟨.outOfRange, ea.setWidth 32, .execute⟩ }

/-- EXECUTE of every instruction answers a next state, by one of its effects. -/
theorem exec_total (i : Instr) (s : State) : ∃ t, exec i s = .next t ∧ Effect i s t := by
  simp only [exec_eq_runExecute]
  cases i
  case ldr rd ea =>
    by_cases h : ea.toNat < s.mem.size
    · exact ⟨_, runExecute_ldr_inside h, .load rd ea rfl h⟩
    · exact ⟨_, runExecute_ldr_outside (Nat.not_lt.1 h), .loadFault rd ea rfl (Nat.not_lt.1 h)⟩
  case str rd ea =>
    by_cases h : ea.toNat < s.mem.size
    · exact ⟨_, runExecute_str_inside h, .store rd ea rfl h⟩
    · exact ⟨_, runExecute_str_outside (Nat.not_lt.1 h), .storeFault rd ea rfl (Nat.not_lt.1 h)⟩
  case cmpReg | cmpImm => exact ⟨_, runExecute_cmp _ _ s, .compare _ _ rfl⟩
  case b | beq | bgt | blt | bne => exact ⟨_, runExecute_branch _ _ s, .branch _ rfl⟩
  case bxxLow | bxxHigh => exact ⟨_, runExecute_bxx s, .unassigned rfl⟩
  case outReg | outImm => exact ⟨_, runExecute_out _ s, .output _ rfl⟩
  case halt => exact ⟨_, runExecute_halt s, .stop rfl⟩
  all_goals exact ⟨_, runExecute_alu _ _ _ _ s, .alu _ _ _ _ rfl rfl⟩

/-- What EXECUTE answers is one of the instruction's effects. -/
theorem exec_effect {i : Instr} {s t : State} (h : exec i s = .next t) : Effect i s t := by
  obtain ⟨u, hu, he⟩ := exec_total i s
  obtain rfl : u = t := by simpa [hu] using h
  exact he

/-- An uninterrupted step at a PC inside Memory is EXECUTE of the word fetched (40_engine.md R153). -/
theorem stepInstruction_inside {s : State} (h : s.pc.toNat < s.mem.size) :
    ∃ u, exec (decode (s.mem.get s.pc.toNat)) (s.readyToExecute (s.mem.get s.pc.toNat)) = .next u ∧
      stepInstruction s = .next u.afterExecute := by
  obtain ⟨u, hu, -⟩ := exec_total (decode (s.mem.get s.pc.toNat)) (s.readyToExecute (s.mem.get s.pc.toNat))
  refine ⟨u, hu, ?_⟩
  simp only [State.readyToExecute] at hu
  simp [stepInstruction, fetchPhase_inside h, PhaseEnd.state, hu]

/-- An uninterrupted step at a PC outside Memory is the fault of FETCH (60_exceptions.md R244). -/
theorem stepInstruction_outside {s : State} (h : s.mem.size ≤ s.pc.toNat) :
    stepInstruction s = .next { s with
      busAddr := s.pc, busCtrl := .read, status := .faulted ⟨.outOfRange, s.pc, .fetch⟩ } := by
  simp [stepInstruction, fetchPhase_outside h]

@[simp] theorem State.afterExecute_pc (s : State) : s.afterExecute.pc = s.pc := by
  unfold State.afterExecute
  split <;> rfl

/-- The step in a quiet state. -/
theorem step_quiet {s : State} (h : s.quiet = true) : step s = stepInstruction s := by
  simp [step, h]

/-- The values of a flag word an unsigned comparison gives (42_alu.md R192). -/
theorem compareFlags_cases (a b : Word) :
    (a = b ∧ compareFlags a b = 24#32) ∨ (b.toNat < a.toNat ∧ compareFlags a b = 21#32) ∨
      (a.toNat < b.toNat ∧ compareFlags a b = 19#32) := by
  obtain h | h | h := Nat.lt_trichotomy a.toNat b.toNat
  · have hne : a ≠ b := ne_of_apply_ne BitVec.toNat h.ne
    exact .inr (.inr ⟨h, by simp [compareFlags, hne, h, Nat.not_lt.2 h.le]⟩)
  · obtain rfl := BitVec.eq_of_toNat_eq h
    exact .inl ⟨rfl, by simp [compareFlags]⟩
  · have hne : a ≠ b := ne_of_apply_ne BitVec.toNat h.ne'
    exact .inr (.inl ⟨h, by simp [compareFlags, hne, h, Nat.not_lt.2 h.le]⟩)

/-- The legal values of FLAGS, listed (10_state.md R32). -/
theorem flagsLegal_iff (f : Word) : flagsLegal f = true ↔ f = 0#32 ∨ f = 24#32 ∨ f = 21#32 ∨ f = 19#32 := by
  simp [flagsLegal, or_assoc]

/-- The result of CMP is a legal value of FLAGS. -/
theorem compareFlags_legal (a b : Word) : flagsLegal (compareFlags a b) = true := by
  obtain ⟨-, h⟩ | ⟨-, h⟩ | ⟨-, h⟩ := compareFlags_cases a b <;> rw [h] <;> rfl

/-- FLAGS is left alone by every instruction but CMP (10_state.md R32). -/
theorem exec_flags {i : Instr} {s t : State} (h : exec i s = .next t) (hf : i.family ≠ .compare) : t.flags = s.flags := by
  cases exec_effect h
  case compare family => exact absurd family hf
  all_goals rfl

/-- PC is left alone by every instruction but the branches (10_state.md R26). -/
theorem exec_pc {i : Instr} {s t : State} (h : exec i s = .next t) (hf : i.family ≠ .branch) : t.pc = s.pc := by
  cases exec_effect h
  case branch family => exact absurd family hf
  all_goals rfl

/-- CIR is left alone by every instruction (10_state.md R28). -/
theorem exec_cir {i : Instr} {s t : State} (h : exec i s = .next t) : t.cir = s.cir := by
  cases exec_effect h <;> rfl

/-- The destination of an instruction is the only register its effect writes. -/
theorem exec_reg {i : Instr} {s t : State} (h : exec i s = .next t) {r : Reg} (hr : i.destination ≠ some r) :
    t.reg r = s.reg r := by
  cases exec_effect h
  case alu rd a b v _ hd => exact s.reg_setReg_other rd r v (fun e => hr (e ▸ hd))
  case load rd ea hi _ => exact s.reg_setReg_other rd r _ (fun e => hr (by rw [hi, e]; rfl))
  all_goals rfl

/-- A branch jumps to its label, zero-extended, when its predicate holds of FLAGS, and changes nothing otherwise
(43_branch.md R211, R212). -/
theorem exec_branch (c : Condition) {i : Instr} {label : BitVec 16} (hi : executeOps i = branchOps c label) (s : State) :
    exec i s = .next (if c.holds s.flags then { s with pc := BitVec.ofNat 32 label.toNat } else s) := by
  have htarget : branchTarget label = BitVec.ofNat 32 label.toNat := (BitVec.ofNat_toNat 32 label).symm
  rw [exec_eq_runExecute, hi, runExecute_branch, htarget]
  split <;> rfl

/-- The PC after a branch. -/
theorem exec_branch_pc (c : Condition) {i : Instr} {label : BitVec 16} (hi : executeOps i = branchOps c label) {s t : State}
    (h : exec i s = .next t) : t.pc = if c.holds s.flags then BitVec.ofNat 32 label.toNat else s.pc := by
  rw [exec_branch c hi] at h
  cases h
  split <;> rfl

/-- While FLAGS is 0 no predicate but that of B holds (10_state.md R32). -/
theorem Condition.holds_zero {c : Condition} (hc : c ≠ .always) : c.holds 0#32 = false := by
  cases c
  case always => exact absurd rfl hc
  all_goals rfl

/-- While FLAGS is 0 a conditional branch completes and changes nothing. -/
theorem exec_branch_flags_zero {c : Condition} (hc : c ≠ .always) {i : Instr} {label : BitVec 16}
    (hi : executeOps i = branchOps c label) {s : State} (hf : s.flags = 0#32) : exec i s = .next s := by
  simp [exec_branch c hi, hf, Condition.holds_zero hc]

/-- CMP in either form completes with the flag word of x[Rd] against operand B (42_alu.md R192). -/
theorem exec_compare_flags {i : Instr} {rd : Reg} {b : OperandB} (hi : executeOps i = cmpOps rd b) (s : State) :
    ∃ t, exec i s = .next t ∧ t.flags = compareFlags (s.reg rd) (s.operandB b) := by
  rw [exec_eq_runExecute, hi, runExecute_cmp]
  exact ⟨_, rfl, rfl⟩

end Sys2Proof.Machine
end

section
/-! SUPPORT. The step is the engine driven to its next rest, in every state, so that what every `tick` keeps every step keeps. -/

namespace Sys2Proof.Machine

theorem SameControl.refl (s : State) : SameControl s s := ⟨rfl, rfl, rfl, rfl, rfl, rfl, rfl, rfl, rfl⟩

theorem SameControl.trans {s t u : State} (h : SameControl s t) (k : SameControl t u) : SameControl s u :=
  ⟨k.status.trans h.status, k.phase.trans h.phase, k.paused.trans h.paused, k.grants.trans h.grants,
    k.cancel.trans h.cancel, k.agenda.trans h.agenda, k.inPhase.trans h.inPhase, k.polling.trans h.polling,
    k.last.trans h.last⟩

/-- A phase that completes leaves the control state and the size of Memory alone. -/
theorem runMicros_complete {ph : Phase} {ops : List Micro} {s t : State} {h : Held}
    (hr : runMicros ph ops s h = .complete t) : SameControl s t := by
  induction ops generalizing s h with
  | nil => cases hr; exact .refl _
  | cons op rest ih =>
    rw [runMicros] at hr
    split at hr
    · exact (Micro.run_goes ‹_›).trans (ih hr)
    · cases hr

/-- A phase that ends the run leaves no run active, and the in-phase position alone. -/
theorem runMicros_ended {ph : Phase} {ops : List Micro} {s t : State} {h : Held}
    (hr : runMicros ph ops s h = .ended t) : t.status ≠ .running ∧ t.inPhase = s.inPhase := by
  induction ops generalizing s h with
  | nil => cases hr
  | cons op rest ih =>
    rw [runMicros] at hr
    split at hr
    · obtain ⟨hst, hip⟩ := ih hr
      exact ⟨hst, hip.trans (Micro.run_goes ‹_›).inPhase⟩
    · rename_i hop
      cases hr
      refine ⟨Micro.run_ends_status hop, ?_⟩
      obtain ⟨-, rfl⟩ | ⟨_, -, -, rfl⟩ | ⟨-, rfl⟩ := Micro.run_ends hop <;> rfl

/-- An active run at a phase boundary, with nothing of the host's in sight: `quiet` at any phase. -/
structure Undisturbed (s : State) : Prop where
  status : s.status = .running
  inPhase : s.inPhase = none
  polling : s.polling = false
  paused : s.paused = false
  cancelSeen : s.cancelSeen = false
  agenda : s.agenda = []

theorem quiet_iff (s : State) : s.quiet = true ↔ s.phase = .fetch ∧ Undisturbed s := by
  simp only [State.quiet, Bool.and_eq_true, decide_eq_true_eq, Bool.not_eq_true', Option.isNone_iff_eq_none,
    List.isEmpty_iff]
  exact ⟨fun ⟨⟨⟨⟨⟨⟨hs, hf⟩, hi⟩, hl⟩, hp⟩, hc⟩, ha⟩ => ⟨hf, hs, hi, hl, hp, hc, ha⟩,
    fun ⟨hf, hs, hi, hl, hp, hc, ha⟩ => ⟨⟨⟨⟨⟨⟨hs, hf⟩, hi⟩, hl⟩, hp⟩, hc⟩, ha⟩⟩

/-- An undisturbed boundary starts the phase that is due. -/
theorem Undisturbed.tick {s : State} (h : Undisturbed s) : tick s = { s with inPhase := some ⟨s.phaseOps, {}⟩ } := by
  simp [Machine.tick, h.status, h.inPhase, hostTurn_empty h.agenda, State.boundary, State.mustWait, h.paused, h.cancelSeen,
    State.useGrant, State.startPhase, h.polling]

/-- Driving on from an undisturbed boundary runs the phase that is due whole, and goes on from its end. -/
theorem Undisturbed.drive {s : State} (h : Undisturbed s) (fuel : Nat) :
    drive (s.phaseOps.length + fuel + 1) s =
      match runMicros s.phase s.phaseOps s {} with
      | .complete t => if t.endPhase.atRest then some t.endPhase else Machine.drive fuel t.endPhase
      | .ended t => some { t with inPhase := none } := by
  have hrest : (Machine.tick s).atRest = false := by simp [h.tick, State.atRest, h.status]
  have hne : s.phaseOps ≠ [] := List.ne_nil_of_length_pos (phaseOps_length s).1
  rw [Machine.drive, hrest, if_neg Bool.false_ne_true, h.tick]
  exact drive_phase s.phaseOps s {} fuel hne h.status h.agenda h.cancelSeen

/-- Where no phase is in progress, giving up the position changes nothing. -/
theorem State.clear_inPhase {s : State} (h : s.inPhase = none) : { s with inPhase := none } = s := by
  cases s
  cases h
  rfl

/-- Driven from the boundary before EXECUTE, the machine comes to rest after the instruction's meaning. -/
theorem Undisturbed.drive_execute {s : State} (h : Undisturbed s) (hp : s.phase = .execute) {fuel : Nat} (hf : 12 ≤ fuel)
    {t : State} (ht : exec (decode s.cir) s = .next t) : Machine.drive fuel s = some t.afterExecute := by
  obtain ⟨k, rfl⟩ : ∃ k, fuel = s.phaseOps.length + k + 1 :=
    ⟨fuel - 1 - s.phaseOps.length, by have := (phaseOps_length s).2; omega⟩
  have hops : s.phaseOps = executeOps (decode s.cir) := by simp [State.phaseOps, hp]
  rw [exec_eq_runExecute, runExecute, ← hops] at ht
  rw [h.drive, hp]
  cases hr : runMicros .execute s.phaseOps s {} <;> rw [hr] at ht <;> cases ht
  case complete u =>
    have hk := runMicros_complete hr
    have hs : u.status = .running := hk.status.trans h.status
    have hend : u.endPhase = u.afterExecute := by
      rw [State.afterExecute, if_pos hs, ← State.clear_inPhase (hk.inPhase.trans h.inPhase), State.endPhase, hk.phase, hp]
      rfl
    have hrest : u.endPhase.atRest = true := by simp [State.atRest, hk.phase, hp, Phase.next]
    exact (if_pos hrest).trans (congrArg some hend)
  case ended u =>
    obtain ⟨hs, hi⟩ := runMicros_ended hr
    simp only [PhaseEnd.state]
    rw [State.clear_inPhase (hi.trans h.inPhase), State.afterExecute, if_neg hs]

/-- The state in which DECODE of the word `w` begins, FETCH having run with nothing interleaved (40_engine.md R144). -/
def State.fetched (s : State) (w : Word) : State :=
  { s with cir := w, pc := s.pc + 1#32, busAddr := s.pc, busData := w, busCtrl := .idle, phase := .decode }

/-- Driven from the boundary before FETCH inside Memory, the machine goes on from the boundary before DECODE. -/
theorem Undisturbed.drive_fetch_inside {s : State} (h : Undisturbed s) (hp : s.phase = .fetch)
    (hin : s.pc.toNat < s.mem.size) (fuel : Nat) :
    Machine.drive (fuel + 11) s = Machine.drive fuel (s.fetched (s.mem.get s.pc.toNat)) := by
  have hops : s.phaseOps = fetchOps := by simp [State.phaseOps, hp]
  have hrun : runMicros s.phase s.phaseOps s {} = fetchPhase s := by rw [hops, hp]; rfl
  have hlen : fuel + 11 = s.phaseOps.length + fuel + 1 := by rw [hops]; simp [fetchOps, busReadOps]; omega
  rw [hlen, h.drive, hrun, fetchPhase_inside hin]
  simp [State.fetched, State.endPhase, State.atRest, State.mustWait, h.status, h.paused, h.inPhase, hp, Phase.next]

/-- Driven from the boundary before FETCH outside Memory, the machine stops with the fault. -/
theorem Undisturbed.drive_fetch_outside {s : State} (h : Undisturbed s) (hp : s.phase = .fetch)
    (hout : s.mem.size ≤ s.pc.toNat) (fuel : Nat) :
    Machine.drive (fuel + 11) s = some { s with
      busAddr := s.pc, busCtrl := .read, status := .faulted ⟨.outOfRange, s.pc, .fetch⟩ } := by
  have hops : s.phaseOps = fetchOps := by simp [State.phaseOps, hp]
  have hrun : runMicros s.phase s.phaseOps s {} = fetchPhase s := by rw [hops, hp]; rfl
  have hlen : fuel + 11 = s.phaseOps.length + fuel + 1 := by rw [hops]; simp [fetchOps, busReadOps]; omega
  rw [hlen, h.drive, hrun, fetchPhase_outside hout]
  simp [h.inPhase]

/-- Driven from the boundary before DECODE, the machine goes on from the boundary before EXECUTE. -/
theorem Undisturbed.drive_decode {s : State} (h : Undisturbed s) (hp : s.phase = .decode) (fuel : Nat) :
    Machine.drive (fuel + 4) s = Machine.drive fuel { s with ir := some s.cir, phase := .execute } := by
  have hops : s.phaseOps = decodeOps := by simp [State.phaseOps, hp]
  have hrun : runMicros s.phase s.phaseOps s {} = decodePhase s := by rw [hops, hp]; rfl
  have hlen : fuel + 4 = s.phaseOps.length + fuel + 1 := by rw [hops]; simp [decodeOps]; omega
  rw [hlen, h.drive, hrun, decodePhase_eq]
  simp [State.endPhase, State.atRest, State.mustWait, h.status, h.paused, h.inPhase, hp, Phase.next]

/-- In a quiet state the micro-steps compose to the one-instruction function (40_engine.md R153). -/
theorem stepMicro_quiet {s : State} (hq : s.quiet = true) : stepMicro s = stepInstruction s := by
  obtain ⟨hp, h⟩ := (quiet_iff s).1 hq
  by_cases hin : s.pc.toNat < s.mem.size
  · obtain ⟨u, hu, hstep⟩ := stepInstruction_inside hin
    have hfetched : Undisturbed (s.fetched (s.mem.get s.pc.toNat)) :=
      ⟨h.status, h.inPhase, h.polling, h.paused, h.cancelSeen, h.agenda⟩
    have hready : Undisturbed (s.readyToExecute (s.mem.get s.pc.toNat)) :=
      ⟨h.status, h.inPhase, h.polling, h.paused, h.cancelSeen, h.agenda⟩
    have hdrive : drive microFuel s = some u.afterExecute :=
      calc drive microFuel s = drive 53 (s.fetched (s.mem.get s.pc.toNat)) := h.drive_fetch_inside hp hin 53
        _ = drive 49 (s.readyToExecute (s.mem.get s.pc.toNat)) := hfetched.drive_decode rfl 49
        _ = some u.afterExecute := hready.drive_execute rfl (by decide) hu
    rw [hstep, stepMicro, hdrive]
  · have hout := Nat.not_lt.1 hin
    rw [stepInstruction_outside hout, stepMicro, show microFuel = 53 + 11 from rfl, h.drive_fetch_outside hp hout]

/-- The step is the drive to the next rest in every state. -/
theorem step_eq_stepMicro (s : State) : step s = stepMicro s := by
  unfold step
  split
  · exact (stepMicro_quiet ‹_›).symm
  · rfl

/-- What every micro-step of the engine keeps, driving keeps. -/
theorem drive_keeps {P : State → Prop} (hP : ∀ s, P s → P (tick s)) {fuel : Nat} {s t : State} (hs : P s)
    (ht : drive fuel s = some t) : P t := by
  induction fuel generalizing s with
  | zero => cases ht
  | succ fuel ih =>
    rw [drive] at ht
    split at ht
    · cases ht
      exact hP s hs
    · exact ih (hP s hs) ht

/-- What every micro-step of the engine keeps, every step keeps. -/
theorem step_keeps {P : State → Prop} (hP : ∀ s, P s → P (tick s)) {s t : State} (hs : P s) (ht : step s = .next t) :
    P t := by
  rw [step_eq_stepMicro, stepMicro] at ht
  split at ht
  · cases ht
    exact drive_keeps hP hs ‹_›
  · cases ht

end Sys2Proof.Machine
end

section
/-! SUPPORT. The legal states: every micro-step of the engine and every action of the host keeps them. -/

namespace Sys2Proof.Machine

/-- The parts of a legal state but the poll wait, which the host can end between two checks (40_engine.md R142). -/
structure Sound (s : State) : Prop where
  mem : s.mem.wf = true
  flags : flagsLegal s.flags = true
  position : s.positionOk = true
  ir : s.irOk = true
  fault : s.faultOk = true
  token : s.tokenOk = true

theorem legal_iff (s : State) : s.legal = true ↔ Sound s ∧ s.pollOk = true := by
  simp only [State.legal, Bool.and_eq_true]
  exact ⟨fun ⟨⟨⟨⟨⟨⟨hm, hf⟩, hp⟩, hl⟩, hi⟩, hr⟩, ht⟩ => ⟨⟨hm, hf, hp, hi, hr, ht⟩, hl⟩,
    fun ⟨⟨hm, hf, hp, hi, hr, ht⟩, hl⟩ => ⟨⟨⟨⟨⟨⟨hm, hf⟩, hp⟩, hl⟩, hi⟩, hr⟩, ht⟩⟩

/-- A state that is not in the poll wait needs only its other parts to be legal. -/
theorem Sound.legal {s : State} (h : Sound s) (hp : s.polling = false) : s.legal = true :=
  (legal_iff s).2 ⟨h, by simp [State.pollOk, hp]⟩

/-- In a legal state only an active run at a boundary is in the poll wait. -/
theorem polling_false {s : State} (h : s.pollOk = true) (hn : s.status ≠ .running ∨ s.inPhase ≠ none) :
    s.polling = false := by
  cases hp : s.polling
  · rfl
  · simp [State.pollOk, hp] at h
    simp [h] at hn

theorem tokenOk_of_cancel {s : State} (h : s.cancel.isSome = true) : s.tokenOk = true := by
  cases hs : s.status <;> simp [State.tokenOk, hs, h]

/-- IR is still right when the run gives up its position. -/
theorem irOk_clear {s : State} (h : s.irOk = true) : State.irOk { s with inPhase := none } = true := by
  cases hp : s.phase
  case fetch | decode => simp [State.irOk]
  case execute => simpa [State.irOk, hp] using h

/-- What the host can do to an active run keeps every part but the poll wait. -/
theorem Sound.host {s : State} (h : Sound s) (p : Bool) (g : Nat) {c : Option Bool} (ag : List (List HostEvent))
    (hc : c = s.cancel ∨ c = some true) : Sound { s with paused := p, grants := g, cancel := c, agenda := ag } where
  mem := h.mem
  flags := h.flags
  position := h.position
  ir := h.ir
  fault := h.fault
  token := by
    obtain rfl | rfl := hc
    · exact h.token
    · exact tokenOk_of_cancel rfl

theorem Sound.useGrant {s : State} (h : Sound s) : Sound s.useGrant := by
  rw [useGrant_eq]
  exact h.host _ _ _ (.inl rfl)

/-- A run that a check cuts ends legal (40_engine.md R154). -/
theorem Sound.stopCancelled {s : State} (h : Sound s) : s.stopCancelled.legal = true :=
  Sound.legal ⟨h.mem, h.flags, rfl, irOk_clear h.ir, rfl, rfl⟩ rfl

/-- A phase starts at the first position of its list, where no flag word is held yet. -/
theorem phaseOps_flagsReady (s : State) (known : Bool) : flagsReady known s.phaseOps = true := by
  unfold State.phaseOps
  split
  · rfl
  · rfl
  · exact executeOps_flagsReady _ _

theorem Sound.startPhase {s : State} (h : Sound s) (hs : s.status = .running) : s.startPhase.legal = true := by
  refine Sound.legal ⟨h.mem, h.flags, ?_, ?_, h.fault, h.token⟩ rfl
  · have hsuffix : s.phaseOps.isSuffixOf s.startPhase.phaseOps = true :=
      List.isSuffixOf_iff_suffix.2 (List.suffix_refl s.phaseOps)
    simp [State.positionOk, hs, hsuffix, phaseOps_flagsReady]
  · cases hp : s.phase
    case fetch => simp [State.irOk, hp]
    case decode => simp [State.irOk, hp, State.phaseOps, decodeOps]
    case execute =>
      have hstored : s.ir = some s.cir := by simpa [State.irOk, hp] using h.ir
      simp [State.irOk, hp, hstored]

/-- The boundary of an active run, from its first check or from the poll wait, leaves a legal state (40_engine.md R142). -/
theorem Sound.boundary {s : State} (h : Sound s) (hs : s.status = .running) (hi : s.inPhase = none) :
    s.boundary.legal = true := by
  obtain ⟨-, hb | ⟨-, -, hb⟩⟩ | ⟨-, hw, hb⟩ | ⟨-, -, hb⟩ := boundary_cases s <;> rw [hb]
  · exact h.stopCancelled
  · exact h.useGrant.stopCancelled
  · have hpoll : State.pollOk { s with polling := true } = true := by
      simpa [State.pollOk, State.mustWait, hs, hi] using hw
    exact (legal_iff _).2 ⟨⟨h.mem, h.flags, h.position, h.ir, h.fault, h.token⟩, hpoll⟩
  · exact h.useGrant.startPhase (by simpa [useGrant_eq] using hs)

/-- The end of a phase is legal: DECODE has stored IR by then. -/
theorem Sound.endPhase {s : State} {held : Held} (h : Sound s) (hs : s.status = .running)
    (hi : s.inPhase = some ⟨[], held⟩) (hl : s.polling = false) : s.endPhase.legal = true := by
  have hfault : s.endPhase.faultOk = true := by simp [State.faultOk, hs]
  refine Sound.legal ⟨h.mem, h.flags, rfl, ?_, hfault, h.token⟩ hl
  cases hp : s.phase
  case fetch | execute => simp [State.irOk, hp, Phase.next]
  case decode =>
    have hstored : s.ir = some s.cir := by simpa [State.irOk, hp, hi] using h.ir
    simp [State.irOk, hp, Phase.next, hstored]

/-- The rest of a phase may write a flag word wherever it may with less known of the value held. -/
theorem flagsReady_of_false {ops : List Micro} (h : flagsReady false ops = true) (known : Bool) :
    flagsReady known ops = true := by
  cases known
  · exact h
  induction ops with
  | nil => rfl
  | cons op rest ih => cases op <;> simp_all [flagsReady]

/-- A micro-step the position allows leaves FLAGS legal and the rest of the phase allowed (10_state.md R32). -/
theorem Micro.run_goes_flags {ph : Phase} {s s' : State} {h h' : Held} {op : Micro} {rest : List Micro}
    (hr : op.run ph s h = .goes s' h') (hf : flagsLegal s.flags = true)
    (hready : flagsReady (flagsLegal h.val) (op :: rest) = true) :
    flagsLegal s'.flags = true ∧ flagsReady (flagsLegal h'.val) rest = true := by
  cases op <;> simp only [Micro.run, flagsReady] at hr hready
  case alu o =>
    cases hr
    refine ⟨hf, ?_⟩
    by_cases ho : o = .cmp
    · subst ho
      rw [show AluOp.cmp.apply h.opA h.opB = compareFlags h.opA h.opB from rfl, compareFlags_legal]
      simpa using hready
    · exact flagsReady_of_false (by simpa [ho] using hready) _
  case writeFlags =>
    cases hr
    simpa using hready
  case readFlags =>
    cases hr
    exact ⟨hf, by rwa [hf]⟩
  case memRead a =>
    split at hr <;> cases hr
    exact ⟨hf, flagsReady_of_false hready _⟩
  case memWrite a =>
    split at hr <;> cases hr
    exact ⟨hf, hready⟩
  case branch c target =>
    cases hr
    split <;> exact ⟨hf, hready⟩
  case holdReg | holdOperand =>
    cases hr
    exact ⟨hf, flagsReady_of_false hready _⟩
  case halt | raiseIllegal => cases hr
  all_goals
    cases hr
    exact ⟨hf, hready⟩

/-- A micro-step other than the latch of FETCH leaves CIR alone, and one other than DECODE's store leaves IR alone. -/
theorem Micro.run_goes_ir {ph : Phase} {s s' : State} {h h' : Held} {op : Micro} (hr : op.run ph s h = .goes s' h')
    (hl : op ≠ .latchInstruction) : s'.cir = s.cir ∧ s'.ir = if op = .storeIr then some s.cir else s.ir := by
  cases op <;> simp only [Micro.run] at hr
  case latchInstruction => exact absurd rfl hl
  case memRead a => split at hr <;> cases hr; exact ⟨rfl, rfl⟩
  case memWrite a => split at hr <;> cases hr; exact ⟨rfl, rfl⟩
  case branch c target => cases hr; split <;> exact ⟨rfl, rfl⟩
  case halt | raiseIllegal => cases hr
  all_goals
    cases hr
    exact ⟨rfl, rfl⟩

/-- Which lists the micro-steps that touch CIR, IR and the fault of `B??` stand in. -/
theorem mem_phaseOps {s : State} {op : Micro} (h : op ∈ s.phaseOps) :
    (op = .latchInstruction → s.phase = .fetch) ∧ (op = .storeIr → s.phase = .decode) ∧
    (op = .raiseIllegal → s.phase = .execute ∧ (decodeFields s.cir).mnemonic = .bxx) := by
  cases hp : s.phase <;> simp only [State.phaseOps, hp] at h
  case fetch =>
    refine ⟨fun _ => rfl, ?_, ?_⟩ <;> rintro rfl <;> simp [fetchOps, busReadOps] at h
  case decode =>
    refine ⟨?_, fun _ => rfl, ?_⟩ <;> rintro rfl <;> simp [decodeOps] at h
  case execute =>
    obtain ⟨hlatch, hstore⟩ := executeOps_noLatch (decode s.cir)
    refine ⟨?_, ?_, ?_⟩ <;> rintro rfl
    · exact absurd h hlatch
    · exact absurd h hstore
    · exact ⟨rfl, decode_family_unassigned (executeOps_raiseIllegal h)⟩

/-- What a legal position of a phase in progress says. -/
theorem positionOk_some {s : State} {todo : List Micro} {h : Held} (hi : s.inPhase = some ⟨todo, h⟩) :
    s.positionOk = true ↔ s.status = .running ∧ todo <:+ s.phaseOps ∧ flagsReady (flagsLegal h.val) todo = true := by
  simp [State.positionOk, hi, and_assoc]

/-- Whatever FETCH latches, the list of the phase in progress stays what it is. -/
theorem Micro.run_goes_phaseOps {s s' : State} {h h' : Held} {op : Micro} (hr : op.run s.phase s h = .goes s' h')
    (hop : op ∈ s.phaseOps) : s'.phaseOps = s.phaseOps := by
  have hphase := (Micro.run_goes hr).phase
  by_cases hl : op = .latchInstruction
  · have hf := (mem_phaseOps hop).1 hl
    simp [State.phaseOps, hphase, hf]
  · simp [State.phaseOps, hphase, (Micro.run_goes_ir hr hl).1]

/-- IR is right after a micro-step of the phase in progress (40_engine.md R149). -/
theorem Micro.run_goes_irOk {s s' : State} {h h' : Held} {op : Micro} {rest : List Micro}
    (hr : op.run s.phase s h = .goes s' h') (hop : op ∈ s.phaseOps) (hi : s.inPhase = some ⟨op :: rest, h⟩)
    (hir : s.irOk = true) : State.irOk { s' with inPhase := some ⟨rest, h'⟩ } = true := by
  obtain ⟨hlatch, hstore, -⟩ := mem_phaseOps hop
  have hphase := (Micro.run_goes hr).phase
  cases hp : s.phase <;> rw [hp] at hlatch hstore hphase
  case fetch => simp [State.irOk, hphase]
  case decode =>
    obtain ⟨hcir, hir'⟩ := Micro.run_goes_ir hr (fun e => nomatch hlatch e)
    by_cases hs : op = .storeIr
    · simp [State.irOk, hphase, hir', hcir, hs]
    · simpa [State.irOk, hphase, hir', hcir, hs, hp, hi, Ne.symm hs] using hir
  case execute =>
    obtain ⟨hcir, hir'⟩ := Micro.run_goes_ir hr (fun e => nomatch hlatch e)
    have hs : op ≠ .storeIr := fun e => nomatch hstore e
    simpa [State.irOk, hphase, hir', hcir, hs, hp] using hir

/-- A micro-step after which the phase goes on leaves the new position legal. -/
theorem Sound.run_goes {s s' : State} {h h' : Held} {op : Micro} {rest : List Micro} (hs : Sound s)
    (hi : s.inPhase = some ⟨op :: rest, h⟩) (hr : op.run s.phase s h = .goes s' h') :
    Sound { s' with inPhase := some ⟨rest, h'⟩ } := by
  obtain ⟨hrun, hsuffix, hready⟩ := (positionOk_some hi).1 hs.position
  have hop : op ∈ s.phaseOps := hsuffix.subset List.mem_cons_self
  have hcontrol := Micro.run_goes hr
  have hmem := Micro.run_goes_wf hr hs.mem
  have hrun' : s'.status = .running := hcontrol.status.trans hrun
  obtain ⟨hflags, hready'⟩ := Micro.run_goes_flags hr hs.flags hready
  have hrest : rest <:+ s'.phaseOps := by
    rw [Micro.run_goes_phaseOps hr hop]
    exact (List.suffix_cons op rest).trans hsuffix
  exact {
    mem := hmem
    flags := hflags
    position := (positionOk_some rfl).2 ⟨hrun', hrest, hready'⟩
    ir := Micro.run_goes_irOk hr hop hi hs.ir
    fault := by simp [State.faultOk, hrun']
    token := by simpa [State.tokenOk, hrun', hrun, hcontrol.cancel] using hs.token }

/-- A micro-step that ends the run leaves a legal state: the fault on record is one the machine raises. -/
theorem Sound.run_ends {s s' : State} {h : Held} {op : Micro} {rest : List Micro} (hs : Sound s)
    (hi : s.inPhase = some ⟨op :: rest, h⟩) (hl : s.polling = false) (hr : op.run s.phase s h = .ends s') :
    State.legal { s' with inPhase := none } = true := by
  obtain ⟨-, hsuffix, -⟩ := (positionOk_some hi).1 hs.position
  have hop : op ∈ s.phaseOps := hsuffix.subset List.mem_cons_self
  obtain ⟨-, rfl⟩ | ⟨a, -, hout, rfl⟩ | ⟨hill, rfl⟩ := Micro.run_ends hr
  · exact Sound.legal ⟨hs.mem, hs.flags, rfl, rfl, rfl, rfl⟩ hl
  · exact Sound.legal ⟨hs.mem, hs.flags, rfl, irOk_clear hs.ir, by simp [State.faultOk, hout], rfl⟩ hl
  · obtain ⟨hexec, hbxx⟩ := (mem_phaseOps hop).2.2 hill
    exact Sound.legal ⟨hs.mem, hs.flags, rfl, irOk_clear hs.ir, by simp [State.faultOk, hexec, hbxx], rfl⟩ hl

/-- A micro-step performed where a sound run stands leaves a legal state. -/
theorem Sound.perform {s : State} {h : Held} {op : Micro} {rest : List Micro} (hs : Sound s)
    (hi : s.inPhase = some ⟨op :: rest, h⟩) (hl : s.polling = false) : (s.perform op rest h).legal = true := by
  unfold State.perform
  split
  · rename_i s' h' hr
    have hsound := hs.run_goes hi hr
    have hl' : s'.polling = false := (Micro.run_goes hr).polling.trans hl
    cases rest with
    | nil => exact hsound.endPhase ((positionOk_some rfl).1 hsound.position).1 rfl hl'
    | cons op' rest' => exact hsound.legal hl'
  · exact hs.run_ends hi hl ‹_›

/-- A wait and the check before it leave a legal state (40_engine.md R143). -/
theorem Sound.performWait {s : State} {h : Held} {k : WaitKind} {rest : List Micro} (hs : Sound s)
    (hi : s.inPhase = some ⟨.wait k :: rest, h⟩) (hl : s.polling = false) : (s.performWait k rest h).legal = true := by
  unfold State.performWait
  split
  · exact hs.stopCancelled
  · exact hs.perform hi hl

/-- The state reset leaves is legal, for a Memory of any size. -/
theorem cleared_legal (last : Word) (agenda : List (List HostEvent)) : (State.cleared last agenda).legal = true := rfl

/-- Every slot of a cleared machine is 0 (10_state.md R42). -/
theorem cleared_slot (last : Word) (agenda : List (List HostEvent)) (i : Fin 23) :
    (State.cleared last agenda).slot i = 0#32 := by
  unfold State.slot
  split
  · simp [State.reg, State.cleared]
  · split <;> rfl

/-- Everything a control of the host's can do: reset, run, a load that fits, or a change of PAUSED, the grants and the token
alone (60_exceptions.md R250 to R254, 70_reset_and_hazards.md R280 to R283). -/
theorem apply_cases (e : HostEvent) (s : State) :
    (e = .reset ∧ e.apply s = State.cleared s.mem.last s.agenda) ∨ (e = .run ∧ e.apply s = s.applyRun) ∨
    (∃ words, e = .load words ∧ words.length ≤ s.mem.size ∧ e.apply s = { s with mem := s.mem.loadFrom 0 words }) ∨
    (∃ p g c, (c = s.cancel ∨ c = some true) ∧ e.apply s = { s with paused := p, grants := g, cancel := c }) := by
  cases e
  case reset => exact .inl ⟨rfl, rfl⟩
  case run => exact .inr (.inl ⟨rfl, rfl⟩)
  case load words =>
    simp only [HostEvent.apply, State.applyLoad]
    split
    · exact .inr (.inr (.inr ⟨_, _, _, .inl rfl, rfl⟩))
    · split
      · exact .inr (.inr (.inl ⟨words, rfl, ‹_›, rfl⟩))
      · exact .inr (.inr (.inr ⟨_, _, _, .inl rfl, rfl⟩))
  case pause | resume => exact .inr (.inr (.inr ⟨_, _, _, .inl rfl, rfl⟩))
  case step =>
    simp only [HostEvent.apply, State.applyStep]
    split <;> exact .inr (.inr (.inr ⟨_, _, _, .inl rfl, rfl⟩))
  case cancel =>
    simp only [HostEvent.apply, State.applyCancel]
    split
    · exact .inr (.inr (.inr ⟨_, _, _, .inr rfl, rfl⟩))
    · exact .inr (.inr (.inr ⟨_, _, _, .inl rfl, rfl⟩))

/-- No control of the host's but reset writes CIR (10_state.md R28). -/
theorem apply_cir {e : HostEvent} (he : e ≠ .reset) (s : State) : (e.apply s).cir = s.cir := by
  obtain ⟨hreset, -⟩ | ⟨-, h⟩ | ⟨_, -, -, h⟩ | ⟨_, _, _, -, h⟩ := apply_cases e s
  · exact absurd hreset he
  all_goals exact (congrArg State.cir h).trans rfl

/-- No control of the host's starts a poll wait. -/
theorem apply_polling {s : State} (hl : s.polling = false) (e : HostEvent) : (e.apply s).polling = false := by
  obtain ⟨-, h⟩ | ⟨-, h⟩ | ⟨_, -, -, h⟩ | ⟨_, _, _, -, h⟩ := apply_cases e s <;> rw [h]
  · rfl
  · rfl
  · exact hl
  · exact hl

/-- A control of the host's keeps every part but the poll wait. -/
theorem Sound.apply {s : State} (hs : Sound s) (e : HostEvent) : Sound (e.apply s) := by
  obtain ⟨-, h⟩ | ⟨-, h⟩ | ⟨words, -, hfit, h⟩ | ⟨p, g, c, hc, h⟩ := apply_cases e s <;> rw [h]
  · exact ((legal_iff _).1 (cleared_legal s.mem.last s.agenda)).1
  · exact ⟨hs.mem, hs.flags, rfl, rfl, rfl, rfl⟩
  · have hmem := Memory.loadFrom_wf words s.mem 0 hs.mem (by omega)
    have hfault : State.faultOk { s with mem := s.mem.loadFrom 0 words } = true := by
      simpa [State.faultOk, Memory.size] using hs.fault
    exact ⟨hmem, hs.flags, hs.position, hs.ir, hfault, hs.token⟩
  · exact hs.host p g s.agenda hc

/-- The host's actions of one turn keep every part, and start no poll wait. -/
theorem Sound.deliver {es : List HostEvent} {s : State} (hs : Sound s) :
    Sound (deliver es s) ∧ (s.polling = false → (Machine.deliver es s).polling = false) := by
  induction es generalizing s with
  | nil => exact ⟨hs, id⟩
  | cons e es ih =>
    rw [Machine.deliver]
    split
    · exact ⟨hs.host s.paused s.grants _ (.inr rfl), id⟩
    · obtain ⟨hsound, hpoll⟩ := ih (hs.apply e)
      exact ⟨hsound, fun hl => hpoll (apply_polling hl e)⟩

/-- The host's turn (`Sound.deliver`). -/
theorem Sound.hostTurn {s : State} (hs : Sound s) :
    Sound (hostTurn s) ∧ (s.polling = false → (Machine.hostTurn s).polling = false) := by
  unfold Machine.hostTurn
  split
  · exact ⟨hs, id⟩
  · rename_i later _
    exact (hs.host s.paused s.grants later (.inl rfl)).deliver

/-- Every micro-step of the engine, the host's turn included, keeps a legal state legal. -/
theorem tick_legal {s : State} (hlegal : s.legal = true) : (tick s).legal = true := by
  obtain ⟨hs, hpoll⟩ := (legal_iff s).1 hlegal
  obtain ⟨hturn, hturnPoll⟩ := hs.hostTurn
  unfold tick
  split
  · rename_i hrun
    obtain ⟨p, g, c, ag, hhost, -⟩ := hostTurn_running hrun
    split
    · rename_i hi
      exact hturn.boundary (by simp [hhost, hrun]) (by simp [hhost, hi])
    · rename_i hi
      exact hs.endPhase hrun hi (polling_false hpoll (.inr (by simp [hi])))
    · rename_i hi
      exact hturn.performWait (by simp [hhost, hi]) (hturnPoll (polling_false hpoll (.inr (by simp [hi]))))
    · rename_i hi
      exact hs.perform hi (polling_false hpoll (.inr (by simp [hi])))
  · rename_i hidle
    exact hturn.legal (hturnPoll (polling_false hpoll (.inl hidle)))

end Sys2Proof.Machine
end

section
/-! The statements on the machine's state (10_state.md): its invariant, PC, CIR and FLAGS, the frames of EXECUTE, reset and the
slots. -/

namespace Sys2Proof.Machine

/-- Settles O29: every micro-step of the engine keeps a legal state legal, and a step is a drive of micro-steps. -/
theorem stepKeepsLegal : Obligations.StepKeepsLegal := by
  unfold Obligations.StepKeepsLegal
  intro s t hs ht
  exact step_keeps (P := fun s => s.legal = true) (fun _ => tick_legal) hs ht

/-- Settles O30, the reset state being the cleared state of the machine's own Memory size. -/
theorem resetIsLegal : Obligations.ResetIsLegal := cleared_legal Config.lastAddress []

/-- Settles O54: each effect writes the destination or no register. -/
theorem registerFrame : Obligations.RegisterFrame := by
  unfold Obligations.RegisterFrame
  intro i s t h r hr
  exact exec_reg h hr

/-- Settles O55: each effect, by its family, against the slots it leaves. -/
theorem specialStateFrame : Obligations.SpecialStateFrame := by
  unfold Obligations.SpecialStateFrame
  intro i s t h
  refine ⟨exec_pc h, exec_flags h, ?_⟩
  cases exec_effect h
  case load | loadFault | store | storeFault => subst i; simp [Instr.family]
  all_goals simp [*]

/-- Settles O27: FETCH latches A + 1, and only a branch writes PC after it. -/
theorem pcAdvance : Obligations.PcAdvance := by
  unfold Obligations.PcAdvance
  intro s t hq ht
  rw [step_quiet hq] at ht
  refine ⟨fun hout => ?_, fun hin => ?_⟩
  · rw [stepInstruction_outside hout] at ht
    cases ht
    rfl
  · obtain ⟨u, hu, hstep⟩ := stepInstruction_inside hin
    rw [hstep] at ht
    cases ht
    rw [State.afterExecute_pc]
    generalize decode (s.mem.get s.pc.toNat) = i at hu
    cases i
    case b => exact exec_branch_pc .always rfl hu
    case beq => exact exec_branch_pc .eq rfl hu
    case bgt => exact exec_branch_pc .gt rfl hu
    case blt => exact exec_branch_pc .lt rfl hu
    case bne => exact exec_branch_pc .ne rfl hu
    all_goals exact exec_pc hu nofun

/-- Settles O28: FETCH latches the word read, and no effect and no control but reset touches CIR. -/
theorem cirHoldsFetchedWord : Obligations.CirHoldsFetchedWord := by
  unfold Obligations.CirHoldsFetchedWord
  refine ⟨fun s h => ⟨_, fetchPhase_inside h, rfl⟩, fun s h => ?_, fun s => ⟨rfl, rfl⟩, fun i s t h => exec_cir h,
    fun e s he => apply_cir he s⟩
  rw [fetchPhase_outside h]
  rfl

/-- Settles O34: the legal values are part of the invariant; the predicates test bits 3 to 0. -/
theorem flagsRules : Obligations.FlagsRules := by
  unfold Obligations.FlagsRules
  refine ⟨⟨rfl, fun s t hs ht => ?_⟩, fun i s t hf h => exec_flags h hf, fun c f => ?_, fun s label hf => ?_⟩
  · exact (flagsLegal_iff _).1 ((legal_iff t).1 (stepKeepsLegal s t hs ht)).1.flags
  · cases c <;> simp [Condition.holds, flagEq, flagGt, flagLt, flagNe]
  · have stays {c : Condition} (hc : c ≠ .always) {i : Instr} (hi : executeOps i = branchOps c label) :
        exec i s = .next s := exec_branch_flags_zero hc hi hf
    exact ⟨stays (c := .eq) nofun rfl, stays (c := .gt) nofun rfl, stays (c := .lt) nofun rfl, stays (c := .ne) nofun rfl,
      exec_branch .always rfl s⟩

/-- Settles O41: the bits of the three words CMP can give, and of the four values of FLAGS. -/
theorem flagBitsAfterCompare : Obligations.FlagBitsAfterCompare := by
  unfold Obligations.FlagBitsAfterCompare
  refine ⟨fun s i rd b hb => ?_, fun s hs => ?_⟩
  · have hcmp : ∃ t, exec i s = .next t ∧ t.flags = compareFlags (s.reg rd) b := by
      obtain ⟨rm, rfl, rfl⟩ | ⟨imm, rfl, rfl⟩ := hb
      · exact exec_compare_flags (b := .reg rm) rfl s
      · rw [BitVec.ofNat_toNat]
        exact exec_compare_flags (b := .imm imm) rfl s
    obtain ⟨t, ht, hflags⟩ := hcmp
    refine ⟨t, ht, ?_⟩
    rw [hflags]
    obtain ⟨hab, hw⟩ | ⟨hab, hw⟩ | ⟨hab, hw⟩ := compareFlags_cases (s.reg rd) b <;> rw [hw]
    · simp [hab]
    · have hne : s.reg rd ≠ b := ne_of_apply_ne BitVec.toNat hab.ne'
      simp [hab, hne, hab.le]
    · have hne : s.reg rd ≠ b := ne_of_apply_ne BitVec.toNat hab.ne
      simp [hab, hne, hab.le]
  · obtain h | h | h | h := (flagsLegal_iff _).1 ((legal_iff s).1 hs).1.flags <;> rw [h] <;> decide

/-- Settles O10: the reset state is cleared field by field; slots 0 to 15 are one cleared register file. -/
theorem resetValues : Obligations.ResetValues := by
  unfold Obligations.ResetValues
  exact ⟨cleared_slot Config.lastAddress [], rfl, fun _ => rfl, rfl, rfl, rfl, rfl, rfl, rfl, rfl, rfl, rfl, rfl, rfl, rfl,
    rfl⟩

/-- Settles O23: slot 18 reads IR, or 0 where it is none. -/
theorem slotReadsRegisterFile : Obligations.SlotReadsRegisterFile := by
  unfold Obligations.SlotReadsRegisterFile
  intro s
  have hir : s.slot 18 = s.ir.getD 0#32 := rfl
  exact ⟨fun r => by simp [State.slot], rfl, rfl, fun w hw => by simp [hir, hw], fun hn => by simp [hir, hn],
    rfl, rfl, rfl, rfl⟩

end Sys2Proof.Machine
end

section
/-! SUPPORT. LDR and STR of any address, as EXECUTE answers them: the whole next state on each side of the bounds check, what a
load returns, what a store leaves in Memory (20_memory.md R64, R70). -/

namespace Sys2Proof.Machine

section
variable {s : State} (rd : Reg) {ea : BitVec 20}

theorem exec_ldr_inside (h : ea.toNat < s.mem.size) :
    exec (.ldr rd ea) s = .next { s with
      regs := s.regs.set rd (s.mem.get ea.toNat),
      busAddr := ea.setWidth 32, busData := s.mem.get ea.toNat, busCtrl := .idle } :=
  (exec_eq_runExecute _ s).trans (runExecute_ldr_inside h)

theorem exec_ldr_outside (h : s.mem.size ≤ ea.toNat) :
    exec (.ldr rd ea) s = .next { s with
      busAddr := ea.setWidth 32, busCtrl := .read,
      status := .faulted ⟨.outOfRange, ea.setWidth 32, .execute⟩ } :=
  (exec_eq_runExecute _ s).trans (runExecute_ldr_outside h)

theorem exec_str_inside (h : ea.toNat < s.mem.size) :
    exec (.str rd ea) s = .next { s with
      mem := s.mem.put ea.toNat (s.reg rd),
      busAddr := ea.setWidth 32, busData := s.reg rd, busCtrl := .idle } :=
  (exec_eq_runExecute _ s).trans (runExecute_str_inside h)

theorem exec_str_outside (h : s.mem.size ≤ ea.toNat) :
    exec (.str rd ea) s = .next { s with
      busAddr := ea.setWidth 32, busData := s.reg rd, busCtrl := .write,
      status := .faulted ⟨.outOfRange, ea.setWidth 32, .execute⟩ } :=
  (exec_eq_runExecute _ s).trans (runExecute_str_outside h)

/-- A load inside Memory completes, and its register holds the cell read. -/
theorem exec_ldr_reg (h : ea.toNat < s.mem.size) :
    ∃ t, exec (.ldr rd ea) s = .next t ∧ t.reg rd = s.mem.get ea.toNat :=
  ⟨_, exec_ldr_inside rd h, s.reg_setReg_same rd _⟩

/-- A store inside Memory completes, and Memory is as the one write leaves it. -/
theorem exec_str_mem (h : ea.toNat < s.mem.size) :
    ∃ t, exec (.str rd ea) s = .next t ∧ t.mem = s.mem.put ea.toNat (s.reg rd) :=
  ⟨_, exec_str_inside rd h, rfl⟩

end

/-- IR is left alone by every instruction: only DECODE writes it (40_engine.md R146). -/
theorem exec_ir {i : Instr} {s t : State} (h : exec i s = .next t) : t.ir = s.ir := by
  cases exec_effect h <;> rfl

/-- FETCH goes on exactly when PC is inside Memory. -/
theorem fetchPhase_complete_iff (s : State) : (∃ t, fetchPhase s = .complete t) ↔ s.pc.toNat < s.mem.size := by
  refine ⟨fun ⟨t, ht⟩ => ?_, fun h => ⟨_, fetchPhase_inside h⟩⟩
  by_contra hout
  rw [fetchPhase_outside (Nat.not_lt.1 hout)] at ht
  cases ht

end Sys2Proof.Machine
end

section
/-! The statements on Memory (20_memory.md): the bounds check, and that loads and fetches see the latest store. -/

namespace Sys2Proof.Machine

/-- Settles O48: each of the three accesses on the two sides of the bounds check. -/
theorem boundsCheck : Obligations.BoundsCheck := by
  unfold Obligations.BoundsCheck
  refine ⟨fun s rd ea hs => ?_, fun s rd ea hs => ?_, fun s _ => ⟨fetchPhase_complete_iff s, fun hout =>
    ⟨_, fetchPhase_outside hout, rfl, rfl, rfl, rfl, _, rfl, rfl⟩⟩⟩
  · obtain hin | hout := Nat.lt_or_ge ea.toNat s.mem.size
    · exact ⟨_, exec_ldr_inside rd hin, iff_of_true hs hin, rfl, fun hout => absurd hin (Nat.not_lt.2 hout)⟩
    · exact ⟨_, exec_ldr_outside rd hout, iff_of_false nofun (Nat.not_lt.2 hout), rfl, fun _ => ⟨rfl, _, rfl, rfl⟩⟩
  · obtain hin | hout := Nat.lt_or_ge ea.toNat s.mem.size
    · exact ⟨_, exec_str_inside rd hin, iff_of_true hs hin, rfl, fun hout => absurd hin (Nat.not_lt.2 hout)⟩
    · exact ⟨_, exec_str_outside rd hout, iff_of_false nofun (Nat.not_lt.2 hout), rfl, fun _ => ⟨rfl, _, rfl, rfl⟩⟩

/-- Settles O49: a load reads the Memory the store left, which gives the stored word at its address and the old one elsewhere. -/
theorem loadSeesLatestStore : Obligations.LoadSeesLatestStore := by
  unfold Obligations.LoadSeesLatestStore
  intro s rs rd ea eb hwf hea heb
  obtain ⟨t, ht, hmem⟩ := exec_str_mem rs hea
  have hsize : t.mem.size = s.mem.size := by rw [hmem, Memory.put_size]
  obtain ⟨u, hu, hsame⟩ := exec_ldr_reg rd (hsize ▸ hea)
  obtain ⟨v, hv, hother⟩ := exec_ldr_reg rd (hsize ▸ heb)
  refine ⟨t, u, v, ht, hu, ?_, hv, fun hne => ?_⟩
  · rw [hsame, hmem, Memory.get_put_same hwf]
  · rw [hother, hmem, Memory.get_put_other hwf _ (mt BitVec.eq_of_toNat_eq hne)]

/-- Settles O50: STR leaves PC, CIR and IR alone, and FETCH latches the word Memory holds at PC, which is the one stored. -/
theorem fetchSeesStore : Obligations.FetchSeesStore := by
  unfold Obligations.FetchSeesStore
  intro s rd ea hwf hea
  obtain ⟨t, ht, hmem⟩ := exec_str_mem rd hea
  refine ⟨t, ht, exec_cir ht, exec_ir ht, fun hat => ?_⟩
  have hpc : t.pc.toNat = ea.toNat := by rw [exec_pc ht nofun, hat]
  have hin : t.pc.toNat < t.mem.size := by rw [hpc, hmem, Memory.put_size]; exact hea
  have hword : t.mem.get t.pc.toNat = s.reg rd := by rw [hpc, hmem, Memory.get_put_same hwf]
  exact ⟨_, fetchPhase_inside hin, hword⟩

end Sys2Proof.Machine
end

section
/-! SUPPORT. What an encoded instruction decodes to, and the word each format packs as a number (30_encoding.md R97 to R103,
R108). -/

namespace Sys2Proof

/-- The word of a well-formed instruction resolves to its mnemonic (40_engine.md R148). -/
theorem mnemonic_encode {i : Instr} (h : wellFormed i = true) : (decodeFields (encode i)).mnemonic = i.mnemonic :=
  match i with
  | .ldr rd ea => Laws.EncodedMnemonic.ldr rd ea h
  | .str rd ea => Laws.EncodedMnemonic.str rd ea h
  | .addReg rd rn rm => Laws.EncodedMnemonic.addReg rd rn rm h
  | .addImm rd rn imm => Laws.EncodedMnemonic.addImm rd rn imm h
  | .subReg rd rn rm => Laws.EncodedMnemonic.subReg rd rn rm h
  | .subImm rd rn imm => Laws.EncodedMnemonic.subImm rd rn imm h
  | .movReg rd rm => Laws.EncodedMnemonic.movReg rd rm h
  | .movImm rd imm => Laws.EncodedMnemonic.movImm rd imm h
  | .cmpReg rd rm => Laws.EncodedMnemonic.cmpReg rd rm h
  | .cmpImm rd imm => Laws.EncodedMnemonic.cmpImm rd imm h
  | .b label => Laws.EncodedMnemonic.b label h
  | .beq label => Laws.EncodedMnemonic.beq label h
  | .bgt label => Laws.EncodedMnemonic.bgt label h
  | .blt label => Laws.EncodedMnemonic.blt label h
  | .bne label => Laws.EncodedMnemonic.bne label h
  | .bxxLow sub => Laws.EncodedMnemonic.bxxLow sub h
  | .bxxHigh sub => Laws.EncodedMnemonic.bxxHigh sub h
  | .andReg rd rn rm => Laws.EncodedMnemonic.andReg rd rn rm h
  | .andImm rd rn imm => Laws.EncodedMnemonic.andImm rd rn imm h
  | .orrReg rd rn rm => Laws.EncodedMnemonic.orrReg rd rn rm h
  | .orrImm rd rn imm => Laws.EncodedMnemonic.orrImm rd rn imm h
  | .eorReg rd rn rm => Laws.EncodedMnemonic.eorReg rd rn rm h
  | .eorImm rd rn imm => Laws.EncodedMnemonic.eorImm rd rn imm h
  | .mvnReg rd rm => Laws.EncodedMnemonic.mvnReg rd rm h
  | .mvnImm rd imm => Laws.EncodedMnemonic.mvnImm rd imm h
  | .lslReg rd rn rm => Laws.EncodedMnemonic.lslReg rd rn rm h
  | .lslImm rd rn imm => Laws.EncodedMnemonic.lslImm rd rn imm h
  | .lsrReg rd rn rm => Laws.EncodedMnemonic.lsrReg rd rn rm h
  | .lsrImm rd rn imm => Laws.EncodedMnemonic.lsrImm rd rn imm h
  | .outReg rm => Laws.EncodedMnemonic.outReg rm h
  | .outImm imm => Laws.EncodedMnemonic.outImm imm h
  | .halt => Laws.EncodedMnemonic.halt h

section
variable (w : Word)
@[simp] theorem decodeFields_opcode : (decodeFields w).opcode = opcodeOf w := rfl
@[simp] theorem decodeFields_subcode : (decodeFields w).subcode = subcodeOf w := rfl
@[simp] theorem decodeFields_registerOperandFlag : (decodeFields w).registerOperandFlag = flagOf w := rfl
@[simp] theorem decodeFields_immediate : (decodeFields w).immediate = immediateOf w := rfl
@[simp] theorem decodeFields_memoryAddress : (decodeFields w).memoryAddress = memoryAddressOf w := rfl
@[simp] theorem decodeFields_branchLabel : (decodeFields w).branchLabel = branchLabelOf w := rfl
@[simp] theorem decodeFields_rm : (decodeFields w).rm = rmOf w := rfl
@[simp] theorem decodeFields_rn : (decodeFields w).rn = rnOf w := rfl
@[simp] theorem decodeFields_rd : (decodeFields w).rd = rdOf w := rfl
end

/-- The subcode of a `B??` word is that of the instruction. -/
theorem subcodeOf_encodeBranch (sub : BitVec 4) (l : BitVec 16) : subcodeOf (encodeBranch 7 sub.toNat l) = sub :=
  BitVec.eq_of_toNat_eq (encodeBranch_fields (by decide) sub.isLt l).2

/-- The decoder undoes the encoder (30_encoding.md R109). -/
theorem decode_encode {i : Instr} (h : wellFormed i = true) : decode (encode i) = i := by
  have hm := mnemonic_encode h
  unfold decode Decoded.instr
  rw [hm]
  cases i
  case ldr | str => simp [Instr.mnemonic, encode, encodeMem_fields]
  case b | beq | bgt | blt | bne => simp [Instr.mnemonic, encode, encodeBranch_fields]
  case bxxLow sub =>
    have hs : sub.toNat < 8 := by simp [wellFormed] at h; omega
    simp [Instr.mnemonic, encode, subcodeOf_encodeBranch, hs]
  case bxxHigh sub =>
    have hs : ¬ sub.toNat < 8 := by simp [wellFormed] at h; omega
    simp [Instr.mnemonic, encode, subcodeOf_encodeBranch, hs]
  case halt => rfl
  all_goals simp [Instr.mnemonic, encode, encodeRegForm_fields, encodeImmForm_fields]

section
variable {op : Nat} (ho : op < 16)
include ho

/-- Format MEM (30_encoding.md R97, R108). -/
theorem encodeMem_toNat (rd : Reg) (ea : BitVec 20) :
    (encodeMem op rd ea).toNat = op * 2 ^ 28 + ea.toNat * 2 ^ 8 + rd.val := by
  rw [encodeMem, packWord_toNat ho (by omega) (by omega) (by decide) rd.isLt]
  omega

/-- The register forms (R98 to R100, R108). -/
theorem encodeRegForm_toNat (rd rn rm : Reg) :
    (encodeRegForm op rd rn rm).toNat = op * 2 ^ 28 + (2 ^ 27 + rm.val * 2 ^ 8) + rn.val * 2 ^ 4 + rd.val := by
  rw [encodeRegForm, packWord_toNat ho (by omega) (by omega) rn.isLt rd.isLt]
  omega

/-- The immediate forms (R98 to R100, R108). -/
theorem encodeImmForm_toNat (rd rn : Reg) (imm : BitVec 19) :
    (encodeImmForm op rd rn imm).toNat = op * 2 ^ 28 + imm.toNat * 2 ^ 8 + rn.val * 2 ^ 4 + rd.val := by
  rw [encodeImmForm, packWord_toNat ho (by omega) (by omega) rn.isLt rd.isLt]
  omega

/-- The branches (R101, R102, R108). -/
theorem encodeBranch_toNat {sub : Nat} (hs : sub < 16) (label : BitVec 16) :
    (encodeBranch op sub label).toNat = op * 2 ^ 28 + (sub * 2 ^ 24 + label.toNat * 2 ^ 8) := by
  rw [encodeBranch, packWord_toNat ho (by omega) (by omega) (by decide) (by decide)]
  omega
end

end Sys2Proof
end

section
/-! SUPPORT. The fields of a word as its masked bits, and what encoding the fields of a word gives back. -/

namespace Sys2Proof

/-! ### Fields -/

/-- A field of a word, put back at its place, is the word under the mask of that place. -/
theorem ofNat_extractLsb' (w : Word) (lo len : Nat) :
    BitVec.ofNat 32 ((w.extractLsb' lo len).toNat * 2 ^ lo) = w &&& BitVec.ofNat 32 ((2 ^ len - 1) * 2 ^ lo) := by
  refine BitVec.eq_of_getLsbD_eq fun k hk => ?_
  simp only [BitVec.getLsbD_and, BitVec.getLsbD_ofNat, hk, decide_true, Bool.true_and, Nat.testBit_mul_two_pow,
    Nat.testBit_two_pow_sub_one, BitVec.testBit_toNat, BitVec.getLsbD_extractLsb']
  by_cases h : lo ≤ k <;> simp [h, Bool.and_comm]

theorem ofNat_opcodeOf (w : Word) : BitVec.ofNat 32 ((opcodeOf w).toNat * 2 ^ 28) = w &&& Field.mask .opcode :=
  ofNat_extractLsb' w 28 4

theorem ofNat_subcodeOf (w : Word) : BitVec.ofNat 32 ((subcodeOf w).toNat * 2 ^ 24) = w &&& Field.mask .subcode :=
  ofNat_extractLsb' w 24 4

theorem ofNat_immediateOf (w : Word) : BitVec.ofNat 32 ((immediateOf w).toNat * 2 ^ 8) = w &&& Field.mask .immediate :=
  ofNat_extractLsb' w 8 19

theorem ofNat_memoryAddressOf (w : Word) :
    BitVec.ofNat 32 ((memoryAddressOf w).toNat * 2 ^ 8) = w &&& Field.mask .memoryAddress :=
  ofNat_extractLsb' w 8 20

theorem ofNat_branchLabelOf (w : Word) :
    BitVec.ofNat 32 ((branchLabelOf w).toNat * 2 ^ 8) = w &&& Field.mask .branchLabel :=
  ofNat_extractLsb' w 8 16

theorem ofNat_rmOf (w : Word) : BitVec.ofNat 32 ((rmOf w).val * 2 ^ 8) = w &&& Field.mask .rm := ofNat_extractLsb' w 8 4

theorem ofNat_rnOf (w : Word) : BitVec.ofNat 32 ((rnOf w).val * 2 ^ 4) = w &&& Field.mask .rn := ofNat_extractLsb' w 4 4

theorem ofNat_rdOf (w : Word) : BitVec.ofNat 32 (rdOf w).val = w &&& Field.mask .rd :=
  (congrArg _ (Nat.mul_one _).symm).trans (ofNat_extractLsb' w 0 4)

/-- The word under the mask of its register-operand flag. -/
theorem and_flagMask (w : Word) :
    w &&& Field.mask .registerOperandFlag = if flagOf w then BitVec.ofNat 32 (2 ^ 27) else 0#32 :=
  BitVec.and_twoPow w 27

/-- Disjoint parts of a word add up to the word under the joined mask. -/
theorem and_add_and (w : Word) {m n : Word} (h : m &&& n = 0#32) : (w &&& m) + (w &&& n) = w &&& (m ||| n) := by
  have hdisjoint : (w &&& m) &&& (w &&& n) = 0#32 := by
    calc (w &&& m) &&& (w &&& n) = w &&& (m &&& n) := by ac_nf
      _ = 0#32 := by rw [h, BitVec.and_zero]
  rw [BitVec.add_eq_or_of_and_eq_zero _ _ hdisjoint, BitVec.and_or_distrib_left]

/-! ### Encoding the fields of a word -/

/-- The packed word as the sum of its four parts (30_encoding.md R108). -/
theorem packWord_eq_add (op op2 rn rd : Nat) :
    packWord op op2 rn rd =
      BitVec.ofNat 32 (op * 2 ^ 28) + BitVec.ofNat 32 op2 + BitVec.ofNat 32 (rn * 2 ^ 4) + BitVec.ofNat 32 rd := by
  simp only [packWord, BitVec.ofNat_add]

section
variable {w : Word}

/-- The op2 contribution of a register form, the flag being 1. -/
theorem ofNat_registerOp2 (hf : flagOf w = true) :
    BitVec.ofNat 32 (2 ^ 27 + (rmOf w).val * 2 ^ 8) = w &&& 0x08000F00#32 := by
  have hflag : BitVec.ofNat 32 (2 ^ 27) = w &&& Field.mask .registerOperandFlag := by rw [and_flagMask, if_pos hf]
  rw [BitVec.ofNat_add, hflag, ofNat_rmOf, and_add_and w (by decide)]
  rfl

/-- The op2 contribution of an immediate form, the flag being 0. -/
theorem ofNat_immediateOp2 (hf : flagOf w = false) :
    BitVec.ofNat 32 ((immediateOf w).toNat * 2 ^ 8) = w &&& 0x0FFFFF00#32 := by
  have hflag : 0#32 = w &&& Field.mask .registerOperandFlag := by rw [and_flagMask, hf]; rfl
  rw [← BitVec.add_zero (BitVec.ofNat 32 _), hflag, ofNat_immediateOf, and_add_and w (by decide)]
  rfl

variable {op : Nat} (hop : (opcodeOf w).toNat = op)
include hop

/-- Format MEM (R97). -/
theorem encodeMem_fieldsOf : encodeMem op (rdOf w) (memoryAddressOf w) = w &&& 0xFFFFFF0F#32 := by
  rw [encodeMem, packWord_eq_add, ← hop, ofNat_opcodeOf, ofNat_memoryAddressOf, ofNat_rdOf, Nat.zero_mul,
    BitVec.add_zero, and_add_and w (by decide), and_add_and w (by decide)]
  rfl

/-- Format ALU3, register form (R98). -/
theorem encodeRegForm_fieldsOf_alu3 (hf : flagOf w = true) :
    encodeRegForm op (rdOf w) (rnOf w) (rmOf w) = w &&& 0xF8000FFF#32 := by
  rw [encodeRegForm, packWord_eq_add, ← hop, ofNat_opcodeOf, ofNat_registerOp2 hf, ofNat_rnOf, ofNat_rdOf,
    and_add_and w (by decide), and_add_and w (by decide), and_add_and w (by decide)]
  rfl

/-- Format ALU3, immediate form (R98). -/
theorem encodeImmForm_fieldsOf_alu3 (hf : flagOf w = false) :
    encodeImmForm op (rdOf w) (rnOf w) (immediateOf w) = w &&& 0xFFFFFFFF#32 := by
  rw [encodeImmForm, packWord_eq_add, ← hop, ofNat_opcodeOf, ofNat_immediateOp2 hf, ofNat_rnOf, ofNat_rdOf,
    and_add_and w (by decide), and_add_and w (by decide), and_add_and w (by decide)]
  rfl

/-- Format ALU2, register form (R99). -/
theorem encodeRegForm_fieldsOf_alu2 (hf : flagOf w = true) :
    encodeRegForm op (rdOf w) 0 (rmOf w) = w &&& 0xF8000F0F#32 := by
  rw [encodeRegForm, packWord_eq_add, ← hop, ofNat_opcodeOf, ofNat_registerOp2 hf, ofNat_rdOf, Fin.val_zero,
    Nat.zero_mul, BitVec.add_zero, and_add_and w (by decide), and_add_and w (by decide)]
  rfl

/-- Format ALU2, immediate form (R99). -/
theorem encodeImmForm_fieldsOf_alu2 (hf : flagOf w = false) :
    encodeImmForm op (rdOf w) 0 (immediateOf w) = w &&& 0xFFFFFF0F#32 := by
  rw [encodeImmForm, packWord_eq_add, ← hop, ofNat_opcodeOf, ofNat_immediateOp2 hf, ofNat_rdOf, Fin.val_zero,
    Nat.zero_mul, BitVec.add_zero, and_add_and w (by decide), and_add_and w (by decide)]
  rfl

/-- Format OUT, register form (R100). -/
theorem encodeRegForm_fieldsOf_out (hf : flagOf w = true) :
    encodeRegForm op 0 0 (rmOf w) = w &&& 0xF8000F00#32 := by
  rw [encodeRegForm, packWord_eq_add, ← hop, ofNat_opcodeOf, ofNat_registerOp2 hf, Fin.val_zero, Nat.zero_mul,
    BitVec.add_zero, BitVec.add_zero, and_add_and w (by decide)]
  rfl

/-- Format OUT, immediate form (R100). -/
theorem encodeImmForm_fieldsOf_out (hf : flagOf w = false) :
    encodeImmForm op 0 0 (immediateOf w) = w &&& 0xFFFFFF00#32 := by
  rw [encodeImmForm, packWord_eq_add, ← hop, ofNat_opcodeOf, ofNat_immediateOp2 hf, Fin.val_zero, Nat.zero_mul,
    BitVec.add_zero, BitVec.add_zero, and_add_and w (by decide)]
  rfl

/-- Format BR (R101). -/
theorem encodeBranch_fieldsOf_br : encodeBranch op 0 (branchLabelOf w) = w &&& 0xF0FFFF00#32 := by
  rw [encodeBranch, packWord_eq_add, ← hop, ofNat_opcodeOf, Nat.zero_mul, Nat.zero_mul, Nat.zero_add,
    ofNat_branchLabelOf, BitVec.add_zero, BitVec.add_zero, and_add_and w (by decide)]
  rfl

/-- Format BCC (R102). -/
theorem encodeBranch_fieldsOf_bcc {sub : Nat} (hsub : (subcodeOf w).toNat = sub) :
    encodeBranch op sub (branchLabelOf w) = w &&& 0xFFFFFF00#32 := by
  rw [encodeBranch, packWord_eq_add, ← hop, ← hsub, ofNat_opcodeOf, BitVec.ofNat_add, ofNat_subcodeOf,
    ofNat_branchLabelOf, Nat.zero_mul, BitVec.add_zero, BitVec.add_zero, and_add_and w (by decide),
    and_add_and w (by decide)]
  rfl

/-- `B??`: opcode and subcode alone (R104). -/
theorem encodeBranch_fieldsOf_bxx : encodeBranch op (subcodeOf w).toNat 0#16 = w &&& 0xFF000000#32 := by
  rw [encodeBranch, packWord_eq_add, ← hop, ofNat_opcodeOf, BitVec.toNat_zero, Nat.zero_mul, Nat.zero_mul,
    Nat.add_zero, ofNat_subcodeOf, BitVec.add_zero, BitVec.add_zero, and_add_and w (by decide)]
  rfl

/-- HALT: the opcode alone (R103). -/
theorem packWord_fieldsOf_halt : packWord op 0 0 0 = w &&& 0xF0000000#32 := by
  rw [packWord_eq_add, ← hop, ofNat_opcodeOf, Nat.zero_mul, BitVec.add_zero, BitVec.add_zero, BitVec.add_zero]
  rfl
end

/-! ### The mnemonic of a word -/

/-- The opcode of a mnemonic (30_encoding.md R96). -/
def Mnemonic.opcode : Mnemonic → Nat
  | .ldr => 0
  | .str => 1
  | .add => 2
  | .sub => 3
  | .mov => 4
  | .cmp => 5
  | .b => 6
  | .beq | .bgt | .blt | .bne | .bxx => 7
  | .and => 8
  | .orr => 9
  | .eor => 10
  | .mvn => 11
  | .lsl => 12
  | .lsr => 13
  | .out => 14
  | .halt => 15

/-- HALT alone has opcode 15. -/
theorem Mnemonic.opcode_eq_fifteen_iff (m : Mnemonic) : m.opcode = 15 ↔ m = .halt := by
  cases m <;> decide

/-- The subcodes of a mnemonic: opcode 7 tells its mnemonics by them, with every other opcode all stand (40_engine.md R148). -/
def Mnemonic.subcodes : Mnemonic → List Nat
  | .beq => [0]
  | .bgt => [1]
  | .blt => [2]
  | .bne => [3]
  | .bxx => List.range' 4 12
  | _ => List.range 16

/-- Opcode and subcode are those of the mnemonic they resolve to. -/
theorem mnemonicOf_codes : ∀ op sub : BitVec 4,
    op.toNat = (mnemonicOf op sub).opcode ∧ sub.toNat ∈ (mnemonicOf op sub).subcodes := by decide

section
variable (w : Word)

theorem opcodeOf_eq_mnemonic_opcode : (opcodeOf w).toNat = (decodeFields w).mnemonic.opcode := (mnemonicOf_codes _ _).1

theorem subcode_mem : (decodeFields w).subcode.toNat ∈ (decodeFields w).mnemonic.subcodes := (mnemonicOf_codes _ _).2

/-- A word decodes to an instruction of the mnemonic it resolves to. -/
theorem mnemonic_decode : (decode w).mnemonic = (decodeFields w).mnemonic := by
  unfold decode Decoded.instr
  cases (decodeFields w).mnemonic
  case add | sub | mov | cmp | bxx | and | orr | eor | mvn | lsl | lsr | out => dsimp only; split <;> rfl
  all_goals rfl

/-- HALT is what the words of its mnemonic decode to, and no other word. -/
theorem decode_eq_halt_iff : decode w = .halt ↔ (decodeFields w).mnemonic = .halt := by
  refine ⟨fun h => ?_, fun h => ?_⟩
  · rw [← mnemonic_decode, h]
    rfl
  · rw [decode, Decoded.instr, h]

/-- Every word decodes to a well-formed instruction (30_encoding.md R106). -/
theorem wellFormed_decode : wellFormed (decode w) = true := by
  have hsub := subcode_mem w
  unfold decode Decoded.instr
  cases hm : (decodeFields w).mnemonic
  case bxx =>
    rw [hm, Mnemonic.subcodes, List.mem_range'_1] at hsub
    by_cases h8 : (decodeFields w).subcode.toNat < 8
    · rw [if_pos h8]
      exact decide_eq_true ⟨hsub.1, by omega⟩
    · rw [if_neg h8]
      exact decide_eq_true (by omega)
  case add | sub | mov | cmp | and | orr | eor | mvn | lsl | lsr | out => dsimp only; split <;> rfl
  all_goals rfl

/-- The encoder gives a word back up to its ignored bits (30_encoding.md R109). -/
theorem encode_decode : encode (decode w) = w &&& meaningfulMask w := by
  have hop := opcodeOf_eq_mnemonic_opcode w
  have hsub := subcode_mem w
  unfold decode Decoded.instr meaningfulMask
  cases hm : (decodeFields w).mnemonic <;> rw [hm] at hop hsub
  case ldr | str => exact encodeMem_fieldsOf hop
  case b => exact encodeBranch_fieldsOf_br hop
  case beq | bgt | blt | bne => exact encodeBranch_fieldsOf_bcc hop (List.mem_singleton.1 hsub)
  case halt => exact packWord_fieldsOf_halt hop
  case bxx => dsimp only; split <;> exact encodeBranch_fieldsOf_bxx hop
  all_goals
    dsimp only
    cases hf : (decodeFields w).registerOperandFlag
  case mov.false | cmp.false | mvn.false => exact encodeImmForm_fieldsOf_alu2 hop hf
  case mov.true | cmp.true | mvn.true => exact encodeRegForm_fieldsOf_alu2 hop hf
  case out.false => exact encodeImmForm_fieldsOf_out hop hf
  case out.true => exact encodeRegForm_fieldsOf_out hop hf
  case add.true | sub.true | and.true | orr.true | eor.true | lsl.true | lsr.true =>
    exact encodeRegForm_fieldsOf_alu3 hop hf
  case add.false | sub.false | and.false | orr.false | eor.false | lsl.false | lsr.false =>
    exact encodeImmForm_fieldsOf_alu3 hop hf
end

end Sys2Proof
end

section
/-! SUPPORT. The row of the opcode table a word is of: it turns on the word's top byte, and no word is of two rows. -/

namespace Sys2Proof

/-- The top byte of a word, opcode and subcode, at its place: every row of the opcode table asks of a word no more. -/
def topByte (w : Word) : Word := w &&& 0xFF000000#32

theorem opcodeOf_topByte (w : Word) : opcodeOf (topByte w) = opcodeOf w := by
  rw [opcodeOf, topByte, BitVec.extractLsb'_and]
  exact BitVec.and_allOnes

theorem subcodeOf_topByte (w : Word) : subcodeOf (topByte w) = subcodeOf w := by
  rw [subcodeOf, topByte, BitVec.extractLsb'_and]
  exact BitVec.and_allOnes

theorem flagOf_topByte (w : Word) : flagOf (topByte w) = flagOf w := by
  rw [flagOf, topByte, BitVec.getLsbD_and]
  exact Bool.and_true _

theorem mnemonic_topByte (w : Word) : (decodeFields (topByte w)).mnemonic = (decodeFields w).mnemonic := by
  simp only [decodeFields, opcodeOf_topByte, subcodeOf_topByte]

theorem meaningfulMask_topByte (w : Word) : meaningfulMask (topByte w) = meaningfulMask w := by
  simp only [meaningfulMask, mnemonic_topByte, decodeFields_registerOperandFlag, flagOf_topByte]

/-- Two decoded records with the same mnemonic, flag and subcode stand for instructions of one row. -/
theorem tableRow_instr_congr {d e : Decoded} (hm : d.mnemonic = e.mnemonic)
    (hf : d.registerOperandFlag = e.registerOperandFlag) (hs : d.subcode = e.subcode) :
    tableRow d.instr = tableRow e.instr := by
  unfold Decoded.instr
  rw [hm, hf, hs]
  cases e.mnemonic
  case add | sub | mov | cmp | and | orr | eor | mvn | lsl | lsr | out => dsimp only; split <;> rfl
  all_goals rfl

theorem tableRow_decode_topByte (w : Word) : tableRow (decode (topByte w)) = tableRow (decode w) :=
  tableRow_instr_congr (mnemonic_topByte w) (flagOf_topByte w) (subcodeOf_topByte w)

/-- A top byte has the match of its row under the row's mask; that mask reaches no further and takes meaningful bits alone; and
the match, read as a word, has the same meaningful bits. -/
theorem topByte_row : ∀ op sub : BitVec 4,
    let v := encodeBranch op.toNat sub.toNat 0#16
    let row := tableRow (decode v)
    v &&& row.1 = row.2 ∧ 0xFF000000#32 &&& row.1 = row.1 ∧ meaningfulMask v &&& row.1 = row.1 ∧
      meaningfulMask row.2 = meaningfulMask v := by
  decide

/-- A word has the match of its row under the row's mask. -/
theorem and_tableRow (w : Word) : w &&& (tableRow (decode w)).1 = (tableRow (decode w)).2 := by
  obtain ⟨hrow, hreach, -, -⟩ := topByte_row (opcodeOf w) (subcodeOf w)
  rw [encodeBranch_fieldsOf_bxx rfl, ← topByte, tableRow_decode_topByte] at hrow hreach
  calc w &&& (tableRow (decode w)).1 = topByte w &&& (tableRow (decode w)).1 := by
        rw [topByte, BitVec.and_assoc, hreach]
    _ = (tableRow (decode w)).2 := hrow

/-- The bits a row asks of its words are meaningful in them. -/
theorem meaningfulMask_and_tableRow (w : Word) :
    meaningfulMask w &&& (tableRow (decode w)).1 = (tableRow (decode w)).1 := by
  obtain ⟨-, -, hmask, -⟩ := topByte_row (opcodeOf w) (subcodeOf w)
  rwa [encodeBranch_fieldsOf_bxx rfl, ← topByte, tableRow_decode_topByte, meaningfulMask_topByte] at hmask

/-- The meaningful bits of a word are those of the match of its row. -/
theorem meaningfulMask_tableRow (w : Word) : meaningfulMask (tableRow (decode w)).2 = meaningfulMask w := by
  obtain ⟨-, -, -, hmask⟩ := topByte_row (opcodeOf w) (subcodeOf w)
  rwa [encodeBranch_fieldsOf_bxx rfl, ← topByte, tableRow_decode_topByte, meaningfulMask_topByte] at hmask

/-- One instruction of each row. -/
def rowSamples : List Instr :=
  [.ldr 0 0, .str 0 0, .addReg 0 0 0, .addImm 0 0 0, .subReg 0 0 0, .subImm 0 0 0, .movReg 0 0, .movImm 0 0,
    .cmpReg 0 0, .cmpImm 0 0, .b 0, .beq 0, .bgt 0, .blt 0, .bne 0, .bxxLow 0, .bxxHigh 0, .andReg 0 0 0,
    .andImm 0 0 0, .orrReg 0 0 0, .orrImm 0 0 0, .eorReg 0 0 0, .eorImm 0 0 0, .mvnReg 0 0, .mvnImm 0 0,
    .lslReg 0 0 0, .lslImm 0 0 0, .lsrReg 0 0 0, .lsrImm 0 0 0, .outReg 0, .outImm 0, .halt]

/-- The rows of the opcode table. -/
def opcodeRows : List (Word × Word) := rowSamples.map tableRow

theorem tableRow_mem (i : Instr) : tableRow i ∈ opcodeRows := by
  cases i <;> simp only [tableRow] <;> decide

/-- No word has the matches of two rows. -/
theorem opcodeRows_disjoint : opcodeRows.Pairwise (fun r q => r.2 &&& q.1 ≠ q.2 &&& r.1) := by decide

/-- Two rows with a word in common are one. -/
theorem row_unique {r q : Word × Word} (hr : r ∈ opcodeRows) (hq : q ∈ opcodeRows) {w : Word} (hwr : w &&& r.1 = r.2)
    (hwq : w &&& q.1 = q.2) : r = q := by
  have hcommon : r.2 &&& q.1 = q.2 &&& r.1 := by
    rw [← hwr, ← hwq]
    ac_rfl
  have hsymm : Std.Symm fun r q : Word × Word => r.2 &&& q.1 ≠ q.2 &&& r.1 := ⟨fun _ _ h => h.symm⟩
  by_contra hne
  exact opcodeRows_disjoint.forall hr hq hne hcommon

/-- A word of the row of an instruction decodes to an instruction of that row. -/
theorem tableRow_decode {w : Word} {i : Instr} (h : w &&& (tableRow i).1 = (tableRow i).2) :
    tableRow i = tableRow (decode w) :=
  row_unique (tableRow_mem i) (tableRow_mem (decode w)) h (and_tableRow w)

end Sys2Proof
end

section
/-! The statements on the encoding (30_encoding.md): the round trip, the packing, the rows of the opcode table, and words that
run whatever they were meant as. -/

namespace Sys2Proof.Machine

@[simp] theorem State.afterExecute_reg (s : State) (r : Reg) : s.afterExecute.reg r = s.reg r := by
  unfold State.afterExecute
  split <;> rfl

/-- Settles O1: the fields of an encoded word are the operands, and those of any word make up its meaningful bits. -/
theorem decodeEncodeRoundTrip : Obligations.DecodeEncodeRoundTrip := by
  unfold Obligations.DecodeEncodeRoundTrip
  exact ⟨fun _ => decode_encode, encode_decode⟩

/-- Settles O2: fields that fit do not overlap, so each format is its sum; a field it lacks adds 0. -/
theorem encodePacksFields : Obligations.EncodePacksFields := by
  unfold Obligations.EncodePacksFields
  have mem (op : Nat) (ho : op < 16) := encodeMem_toNat ho
  have reg (op : Nat) (ho : op < 16) := encodeRegForm_toNat ho
  have imm (op : Nat) (ho : op < 16) := encodeImmForm_toNat ho
  have bcc (sub : Nat) (hs : sub < 16) := encodeBranch_toNat (op := 7) (by decide) hs
  refine ⟨mem 0 (by decide), mem 1 (by decide), fun rd rn rm => ?_, fun rd rn i => ?_, fun rd rm => ?_,
    fun rd i => ?_, fun rm => ?_, fun i => ?_, fun label => ?_, fun label => ?_, by decide⟩
  · exact ⟨reg 2 (by decide) rd rn rm, reg 3 (by decide) rd rn rm, reg 8 (by decide) rd rn rm, reg 9 (by decide) rd rn rm,
      reg 10 (by decide) rd rn rm, reg 12 (by decide) rd rn rm, reg 13 (by decide) rd rn rm⟩
  · exact ⟨imm 2 (by decide) rd rn i, imm 3 (by decide) rd rn i, imm 8 (by decide) rd rn i, imm 9 (by decide) rd rn i,
      imm 10 (by decide) rd rn i, imm 12 (by decide) rd rn i, imm 13 (by decide) rd rn i⟩
  · exact ⟨reg 4 (by decide) rd 0 rm, reg 5 (by decide) rd 0 rm, reg 11 (by decide) rd 0 rm⟩
  · exact ⟨imm 4 (by decide) rd 0 i, imm 5 (by decide) rd 0 i, imm 11 (by decide) rd 0 i⟩
  · exact reg 14 (by decide) 0 0 rm
  · exact imm 14 (by decide) 0 0 i
  · exact (encodeBranch_toNat (op := 6) (by decide) (sub := 0) (by decide) label).trans (by omega)
  · exact ⟨bcc 0 (by decide) label, bcc 1 (by decide) label, bcc 2 (by decide) label, bcc 3 (by decide) label⟩

/-- Settles O4: the row of the one word fixes which bits are meaningful in both, these make up what each encodes back to, and
the decoder undoes the encoder. -/
theorem ignoredBitsDoNotMatter : Obligations.IgnoredBitsDoNotMatter := by
  unfold Obligations.IgnoredBitsDoNotMatter
  refine ⟨fun v w h => ?_, by decide, by decide, by decide⟩
  have hrow : v &&& (tableRow (decode w)).1 = (tableRow (decode w)).2 := by
    rw [← meaningfulMask_and_tableRow, ← BitVec.and_assoc, h, BitVec.and_assoc, meaningfulMask_and_tableRow, and_tableRow]
  have hmask : meaningfulMask v = meaningfulMask w := by
    rw [← meaningfulMask_tableRow, ← tableRow_decode hrow, meaningfulMask_tableRow]
  calc decode v = decode (encode (decode v)) := (decode_encode (wellFormed_decode v)).symm
    _ = decode (encode (decode w)) := by rw [encode_decode, hmask, h, ← encode_decode]
    _ = decode w := decode_encode (wellFormed_decode w)

/-- Settles O5: a row asks for top-byte bits alone, the word has them, and no two rows share a word. -/
theorem everyWordMatchesOneRow : Obligations.EveryWordMatchesOneRow := by
  unfold Obligations.EveryWordMatchesOneRow
  exact fun w => ⟨and_tableRow w, fun _ => tableRow_decode⟩

/-- Settles O6: `decodeWords` takes the head whatever it is; only the subcode of `B??` bears on being well formed. -/
theorem decodingIsTotal : Obligations.DecodingIsTotal := by
  unfold Obligations.DecodingIsTotal
  exact ⟨fun _ _ => rfl, wellFormed_decode, rfl⟩

/-- Settles O7: the opcode is w[31:28], and 15 resolves to HALT and to nothing else. -/
theorem haltWords : Obligations.HaltWords := by
  unfold Obligations.HaltWords
  refine ⟨fun w => ?_, by decide⟩
  calc decode w = .halt ↔ (decodeFields w).mnemonic.opcode = 15 :=
        (decode_eq_halt_iff w).trans (Mnemonic.opcode_eq_fifteen_iff _).symm
    _ ↔ w.toNat / 2 ^ 28 = 15 := by simp only [← opcodeOf_eq_mnemonic_opcode, opcodeOf_toNat, Nat.reducePow]

/-- Settles O8 by running the decoder on each word. -/
theorem sampleWordsDecode : Obligations.SampleWordsDecode := by
  unfold Obligations.SampleWordsDecode
  decide

/-- Settles O9: the step is EXECUTE of whatever FETCH reads; the word of cleared Memory is `ldr r0, 0`, whose cell is 0. -/
theorem dataRunsAsInstructions : Obligations.DataRunsAsInstructions := by
  unfold Obligations.DataRunsAsInstructions
  refine ⟨by decide, by decide, fun s hq hin => ?_⟩
  obtain ⟨u, hu, hstep⟩ := stepInstruction_inside hin
  refine ⟨fun t ht => ?_, fun hclear => ?_⟩
  · obtain rfl : u = t := by simpa [hu] using ht
    rw [step_quiet hq, hstep]
  · have hword : s.mem.get s.pc.toNat = 0#32 := by rw [hclear, Memory.cleared_get]
    have hzero : decode 0#32 = .ldr 0 0#20 := by decide
    obtain ⟨t, ht, hreg⟩ := exec_ldr_reg (s := s.readyToExecute 0#32) 0 (ea := 0#20) (Nat.succ_pos _)
    rw [hword, hzero, ht] at hu
    obtain rfl : t = u := by simpa using hu
    refine ⟨_, (step_quiet hq).trans hstep, ?_, ?_⟩
    · rw [State.afterExecute_reg, hreg]
      exact (congrArg (Memory.get · 0) hclear).trans (Memory.cleared_get _ 0)
    · rw [State.afterExecute_pc, exec_pc ht nofun]
      rfl

end Sys2Proof.Machine
end

section
/-! SUPPORT. What the assembler answers (30_encoding.md R110 to R125): the operands a token writes, the instruction a line
writes, and the two passes over the lines. -/

namespace Sys2Proof.Asm

/-! ### Operands -/

/-- The text writes the operand, and a register it writes is one the assembler accepts (R116, D5). -/
def Reads (labels : Labels) (t : List Char) (o : Operand) : Prop :=
  operandSpelt labels t o = true ∧ ∀ r, o = .reg r → r.val ≤ 10

section
variable {labels : Labels} {t : List Char} {n : Nat}

/-- The register of an index the assembler accepts has that index. -/
theorem register_ok {r : Reg} (h : register n = .ok r) : r.val = n ∧ n ≤ 10 := by
  unfold register at h
  split at h
  · rename_i hmax
    have hle : n ≤ 10 := hmax
    cases h
    exact ⟨Nat.mod_eq_of_lt (by omega), hle⟩
  · cases h

/-- An immediate is the value it is made of. -/
theorem immediate_ok {i : BitVec 19} (h : immediate n = .ok i) : i.toNat = n := by
  unfold immediate at h
  split at h
  · rename_i hlt
    cases h
    exact Nat.mod_eq_of_lt hlt
  · cases h

/-- An address is the value it is made of. -/
theorem address_ok {a : BitVec 20} (h : address n = .ok a) : a.toNat = n := by
  unfold address at h
  split at h
  · rename_i hlt
    cases h
    exact Nat.mod_eq_of_lt hlt
  · cases h

/-- A branch label is the word index it is made of. -/
theorem branchLabel_ok {l : BitVec 16} (h : branchLabel n = .ok l) : l.toNat = n := by
  unfold branchLabel at h
  split at h
  · rename_i hlt
    cases h
    exact Nat.mod_eq_of_lt hlt
  · cases h

theorem reads_register {r : Reg} (ht : registerToken t = some n) (hr : register n = .ok r) : Reads labels t (.reg r) := by
  obtain ⟨rfl, hle⟩ := register_ok hr
  refine ⟨decide_eq_true ht, fun q hq => ?_⟩
  cases hq
  exact hle

theorem reads_immediate {i : BitVec 19} (ht : immediateToken t = some n) (hi : immediate n = .ok i) :
    Reads labels t (.imm i) := by
  obtain rfl := immediate_ok hi
  exact ⟨decide_eq_true ht, nofun⟩

theorem reads_label {l : BitVec 16} (ht : lookup labels t = some n) (hl : branchLabel n = .ok l) :
    Reads labels t (.label l) := by
  obtain rfl := branchLabel_ok hl
  exact ⟨decide_eq_true ht, nofun⟩

theorem reads_address {a : BitVec 20} (ha : addressOperand labels t = .ok a) : Reads labels t (.addr a) := by
  unfold addressOperand at ha
  split at ha
  · rename_i n hn
    obtain rfl := address_ok ha
    exact ⟨by simp [operandSpelt, hn], nofun⟩
  · rename_i hn
    split at ha
    · rename_i n hl
      obtain rfl := address_ok ha
      exact ⟨by simp [operandSpelt, hn, hl], nofun⟩
    · cases ha

end

/-- Operands read one by one are spelt by their texts. -/
theorem operandsSpelt_of_reads {labels : Labels} {ts : List (List Char)} {os : List Operand}
    (h : List.Forall₂ (Reads labels) ts os) : operandsSpelt labels ts os = true := by
  induction h with
  | nil => rfl
  | cons hread _ ih => simp [operandsSpelt, hread.1, ih]

/-- A register among operands read is one the assembler accepts. -/
theorem register_of_reads {labels : Labels} {ts : List (List Char)} {os : List Operand}
    (h : List.Forall₂ (Reads labels) ts os) {r : Reg} (hr : .reg r ∈ os) : r.val ≤ 10 := by
  induction h with
  | nil => cases hr
  | cons hread _ ih =>
    cases hr with
    | head => exact hread.2 r rfl
    | tail _ hr => exact ih hr

/-! ### Instructions by name -/

/-- The instruction has the mnemonic of text `m`, which is not `B??`, and the operands `os`. -/
structure Named (i : Instr) (m : List Char) (os : List Operand) : Prop where
  text : m = i.mnemonic.text
  assigned : i.mnemonic ≠ .bxx
  operands : i.operands = os

theorem memForm_named {m : List Char} {f : Reg → BitVec 20 → Instr} (h : memForm m = some f) (rd : Reg) (a : BitVec 20) :
    Named (f rd a) m [.reg rd, .addr a] := by
  unfold memForm at h
  split at h <;> cases h
  all_goals exact ⟨rfl, nofun, rfl⟩

theorem alu3Form_named {m : List Char} {f : Reg → Reg → Reg → Instr} {g : Reg → Reg → BitVec 19 → Instr}
    (h : alu3Form m = some (f, g)) (rd rn : Reg) :
    (∀ rm, Named (f rd rn rm) m [.reg rd, .reg rn, .reg rm]) ∧ ∀ i, Named (g rd rn i) m [.reg rd, .reg rn, .imm i] := by
  unfold alu3Form at h
  split at h <;> cases h
  all_goals exact ⟨fun _ => ⟨rfl, nofun, rfl⟩, fun _ => ⟨rfl, nofun, rfl⟩⟩

theorem alu2Form_named {m : List Char} {f : Reg → Reg → Instr} {g : Reg → BitVec 19 → Instr}
    (h : alu2Form m = some (f, g)) (rd : Reg) :
    (∀ rm, Named (f rd rm) m [.reg rd, .reg rm]) ∧ ∀ i, Named (g rd i) m [.reg rd, .imm i] := by
  unfold alu2Form at h
  split at h <;> cases h
  all_goals exact ⟨fun _ => ⟨rfl, nofun, rfl⟩, fun _ => ⟨rfl, nofun, rfl⟩⟩

theorem branchForm_named {m : List Char} {f : BitVec 16 → Instr} (h : branchForm m = some f) (l : BitVec 16) :
    Named (f l) m [.label l] := by
  unfold branchForm at h
  split at h <;> cases h
  all_goals exact ⟨rfl, nofun, rfl⟩

/-! ### Lines -/

/-- The line of shape `s` writes the item: an instruction, of the line's mnemonic, with the line's operands. -/
inductive Writes (labels : Labels) (s : Shape) : Item → Prop where
  | code {i : Instr} {os : List Operand} (named : Named i s.mnemonic os)
      (reads : List.Forall₂ (Reads labels) s.operands os) : Writes labels s (.code i)

/-- A computation of the assembler that answers has answered at each of its parts. -/
theorem bind_eq_ok {α β : Type} {x : Except Reason α} {f : α → Except Reason β} {b : β} :
    x >>= f = .ok b ↔ ∃ a, x = .ok a ∧ f a = .ok b := by
  cases x <;> simp [bind, Except.bind]

section
variable {labels : Labels} {s : Shape} {item : Item}

theorem parseMem_writes (h : parseMem labels s = some (.ok item)) : Writes labels s item := by
  unfold parseMem at h
  split at h
  · rename_i f d a hf hops
    split at h
    · cases h
    · rename_i rd hd
      simp only [Option.some.injEq, bind_eq_ok] at h
      obtain ⟨r, hr, e, he, h⟩ := h
      cases h
      exact .code (memForm_named hf r e) (hops ▸ .cons (reads_register hd hr) (.cons (reads_address he) .nil))
  · cases h

theorem parseAlu3_writes (h : parseAlu3 s = some (.ok item)) : Writes labels s item := by
  unfold parseAlu3 at h
  split at h
  · rename_i f g d n b hf hops
    split at h
    · rename_i rd rn rm _ hd hn hb
      simp only [Option.some.injEq, bind_eq_ok] at h
      obtain ⟨r, hr, q, hq, p, hp, h⟩ := h
      cases h
      exact .code ((alu3Form_named hf r q).1 p)
        (hops ▸ .cons (reads_register hd hr) (.cons (reads_register hn hq) (.cons (reads_register hb hp) .nil)))
    · rename_i rd rn i hd hn _ hi
      simp only [Option.some.injEq, bind_eq_ok] at h
      obtain ⟨r, hr, q, hq, p, hp, h⟩ := h
      cases h
      exact .code ((alu3Form_named hf r q).2 p)
        (hops ▸ .cons (reads_register hd hr) (.cons (reads_register hn hq) (.cons (reads_immediate hi hp) .nil)))
    · cases h
  · cases h

theorem parseAlu2_writes (h : parseAlu2 s = some (.ok item)) : Writes labels s item := by
  unfold parseAlu2 at h
  split at h
  · rename_i f g d b hf hops
    split at h
    · rename_i rd rm _ hd hb
      simp only [Option.some.injEq, bind_eq_ok] at h
      obtain ⟨r, hr, p, hp, h⟩ := h
      cases h
      exact .code ((alu2Form_named hf r).1 p) (hops ▸ .cons (reads_register hd hr) (.cons (reads_register hb hp) .nil))
    · rename_i rd i hd _ hi
      simp only [Option.some.injEq, bind_eq_ok] at h
      obtain ⟨r, hr, p, hp, h⟩ := h
      cases h
      exact .code ((alu2Form_named hf r).2 p) (hops ▸ .cons (reads_register hd hr) (.cons (reads_immediate hi hp) .nil))
    · cases h
  · cases h

theorem parseOut_writes (h : parseOut s = some (.ok item)) : Writes labels s item := by
  unfold parseOut at h
  split at h
  · rename_i b hm hops
    split at h
    · rename_i rm _ hb
      simp only [Option.some.injEq, bind_eq_ok] at h
      obtain ⟨p, hp, h⟩ := h
      cases h
      exact .code ⟨hm, nofun, rfl⟩ (hops ▸ .cons (reads_register hb hp) .nil)
    · rename_i i _ hi
      simp only [Option.some.injEq, bind_eq_ok] at h
      obtain ⟨p, hp, h⟩ := h
      cases h
      exact .code ⟨hm, nofun, rfl⟩ (hops ▸ .cons (reads_immediate hi hp) .nil)
    · cases h
  · cases h

theorem parseBranch_writes (h : parseBranch labels s = some (.ok item)) : Writes labels s item := by
  unfold parseBranch at h
  split at h
  · rename_i f name hf hops
    split at h
    · cases h
    · rename_i n hn
      simp only [Option.some.injEq, bind_eq_ok] at h
      obtain ⟨l, hl, h⟩ := h
      cases h
      exact .code (branchForm_named hf l) (hops ▸ .cons (reads_label hn hl) .nil)
  · cases h

theorem parseHalt_writes {t : List Char} (h : parseHalt t = some (.ok item)) : Writes labels (shape t) item := by
  unfold parseHalt at h
  split at h
  · cases h
    exact .code ⟨rfl, nofun, rfl⟩ .nil
  · cases h

theorem parseLiteral_data {t : List Char} (h : parseLiteral t = some (.ok item)) :
    ∃ w, item = .data w ∧ immediateToken t = some w.toNat := by
  unfold parseLiteral at h
  split at h
  · cases h
  · rename_i n hn
    split at h
    · rename_i hlt
      cases h
      exact ⟨_, rfl, by rw [hn, BitVec.toNat_ofNat, Nat.mod_eq_of_lt hlt]⟩
    · cases h

/-- What a line that parses writes: a data word, or an instruction. -/
theorem parseLine_cases {t : List Char} (h : parseLine labels t = .ok item) :
    (∃ w, item = .data w ∧ immediateToken t = some w.toNat) ∨ Writes labels (shape t) item := by
  have some_of_getD {p : Option (Except Reason Item)} {r : Reason} (hp : p.getD (.error r) = .ok item) :
      p = some (.ok item) := by
    cases p with
    | none => cases hp
    | some x => exact congrArg some hp
  have hsome := some_of_getD h
  simp only [Option.orElse_eq_orElse, Option.orElse_eq_or, Option.or_eq_some_iff] at hsome
  obtain h | ⟨-, h | ⟨-, h | ⟨-, h | ⟨-, h | ⟨-, h | ⟨-, h⟩⟩⟩⟩⟩⟩ := hsome
  · exact .inl (parseLiteral_data h)
  · exact .inr (parseMem_writes h)
  · exact .inr (parseAlu3_writes h)
  · exact .inr (parseAlu2_writes h)
  · exact .inr (parseOut_writes h)
  · exact .inr (parseBranch_writes h)
  · exact .inr (parseHalt_writes h)
end

/-! ### The two passes -/

/-- Does the line emit a word? -/
def emits (l : SourceLine) : Bool := (labelOf l.text).isNone

theorem lookup_append_some {labels more : Labels} {name : List Char} {k : Nat} (h : lookup labels name = some k) :
    lookup (labels ++ more) name = some k := by
  induction labels with
  | nil => cases h
  | cons p rest ih =>
    simp only [lookup, List.cons_append] at h ⊢
    split at h
    · rw [if_pos ‹_›, h]
    · rw [if_neg ‹_›, ih h]

theorem lookup_append_none {labels : Labels} {name : List Char} (h : lookup labels name = none) (k : Nat) :
    lookup (labels ++ [(name, k)]) name = some k := by
  induction labels with
  | nil => simp [lookup]
  | cons p rest ih =>
    simp only [lookup, List.cons_append] at h ⊢
    split at h
    · cases h
    · rw [if_neg ‹_›, ih h]

section
variable {l : SourceLine} {ls : List SourceLine} {counter : Nat} {labels out : Labels}

/-- Pass 1 over a line that is no label counts it. -/
theorem bindLabels_emits (hl : labelOf l.text = none) :
    bindLabels (l :: ls) counter labels = bindLabels ls (counter + 1) labels := by
  simp only [bindLabels, hl]

/-- Pass 1 over a label line that succeeds binds a new name to the counter. -/
theorem bindLabels_label {name : List Char} (hl : labelOf l.text = some name)
    (h : bindLabels (l :: ls) counter labels = .ok out) :
    lookup labels name = none ∧ bindLabels ls counter (labels ++ [(name, counter)]) = .ok out := by
  simp only [bindLabels, hl] at h
  split at h
  · exact ⟨‹_›, h⟩
  · cases h

/-- Pass 1 keeps the labels already bound (30_encoding.md R112). -/
theorem bindLabels_keeps {name : List Char} {k : Nat} (h : bindLabels ls counter labels = .ok out)
    (hk : lookup labels name = some k) : lookup out name = some k := by
  induction ls generalizing counter labels with
  | nil =>
    cases h
    exact hk
  | cons l ls ih =>
    cases hl : labelOf l.text with
    | none => exact ih (bindLabels_emits hl ▸ h) hk
    | some name' => exact ih (bindLabels_label hl h).2 (lookup_append_some hk)

/-- Pass 1 binds a label to the number of lines before it that are no labels (R112). -/
theorem bindLabels_lookup {before after : List SourceLine} {name : List Char}
    (h : bindLabels (before ++ l :: after) counter labels = .ok out) (hl : labelOf l.text = some name) :
    lookup out name = some (counter + (before.filter emits).length) := by
  induction before generalizing counter labels with
  | nil =>
    obtain ⟨hnew, hrest⟩ := bindLabels_label hl h
    exact bindLabels_keeps hrest (lookup_append_none hnew counter)
  | cons b before ih =>
    cases hb : labelOf b.text with
    | none =>
      rw [ih (bindLabels_emits hb ▸ h), List.filter_cons_of_pos (by simp [emits, hb]), List.length_cons]
      congr 1
      omega
    | some name' => rw [ih (bindLabels_label hb h).2, List.filter_cons_of_neg (by simp [emits, hb])]
end

/-- The item with its line number is what the line parses to. -/
def ParsesTo (labels : Labels) (p : Item × Nat) (l : SourceLine) : Prop :=
  p.2 = l.number ∧ parseLine labels l.text = .ok p.1

/-- Pass 2 gives, in order, what the lines that are no labels parse to (R110). -/
theorem parseLines_ok {labels : Labels} {ls : List SourceLine} {items : List (Item × Nat)}
    (h : parseLines labels ls = .ok items) : List.Forall₂ (ParsesTo labels) items (ls.filter emits) := by
  induction ls generalizing items with
  | nil =>
    cases h
    exact .nil
  | cons l ls ih =>
    simp only [parseLines] at h
    split at h
    · rename_i hl
      rw [List.filter_cons_of_neg (by simp [emits, hl])]
      exact ih h
    · rename_i hl
      rw [List.filter_cons_of_pos (by simp [emits, hl])]
      split at h
      · cases h
      · rename_i item hitem
        split at h
        · cases h
        · rename_i rest hrest
          cases h
          exact .cons ⟨rfl, hitem⟩ (ih hrest)

/-- A text that assembles has passed both passes, and the words and the line map are those of its items (R110, R124). -/
theorem assemble_ok {text : List Char} {out : Assembly} (h : assemble text = .ok out) :
    ∃ labels items, bindLabels (sourceLines text) 0 [] = .ok labels ∧ parseLines labels (sourceLines text) = .ok items ∧
      assembleItems text = .ok items ∧ out.machineWords = items.map (fun p => p.1.word) ∧
      out.sourceLineOf = (List.range items.length).zip (items.map (fun p => p.2)) := by
  unfold assemble at h
  split at h
  · cases h
  · rename_i items hitems
    cases h
    have hpasses := hitems
    unfold assembleItems at hpasses
    split at hpasses
    · cases hpasses
    · rename_i labels hlabels
      exact ⟨labels, items, hlabels, hpasses, hitems, rfl, rfl⟩

/-- What pass 2 gives at a place is what the line at that place parses to. -/
theorem ParsesTo.getElem? {labels : Labels} {items : List (Item × Nat)} {lines : List SourceLine}
    (h : List.Forall₂ (ParsesTo labels) items lines) {k : Nat} {p : Item × Nat} (hk : items[k]? = some p) :
    ∃ l, lines[k]? = some l ∧ ParsesTo labels p l := by
  obtain ⟨hlt, rfl⟩ := List.getElem?_eq_some_iff.1 hk
  have hlt' : k < lines.length := h.length_eq ▸ hlt
  exact ⟨lines[k], List.getElem?_eq_getElem hlt', h.get hlt hlt'⟩

/-- An instruction that is not `B??` is well formed. -/
theorem wellFormed_of_assigned {i : Instr} (h : i.mnemonic ≠ .bxx) : wellFormed i = true := by
  cases i
  case bxxLow | bxxHigh => exact absurd rfl h
  all_goals rfl

end Sys2Proof.Asm
end

section
/-! The statement on the assembler (30_encoding.md R110 to R125). -/

namespace Sys2Proof.Asm

/-- Settles O59: pass 1 binds the labels, pass 2 parses the other lines one by one, and each parser reads the operands of its
line; an instruction that is not `B??` is well formed, so its word decodes to it. -/
theorem assembledWordsDecode : Obligations.AssembledWordsDecode := by
  unfold Obligations.AssembledWordsDecode
  intro text out h
  obtain ⟨labels, items, hlabels, hparse, hitems, hwords, hmap⟩ := assemble_ok h
  have hlines := parseLines_ok hparse
  refine ⟨labels, items, hlabels, hitems, hwords, fun k hk => ?_, fun before after l name htext hl => ?_, hlines.length_eq,
    fun k item n hk => ?_⟩
  · simp [hmap, hk]
  · rw [htext] at hlabels
    exact Nat.zero_add (before.filter emits).length ▸ bindLabels_lookup hlabels hl
  · obtain ⟨l, hline, hnumber, hitem⟩ := ParsesTo.getElem? hlines hk
    refine ⟨l, hline, hnumber, hitem, fun w hw => ?_, fun i hi => ?_⟩
    · subst hw
      obtain ⟨_, ⟨⟩, htoken⟩ | ⟨⟨⟩⟩ := parseLine_cases hitem
      exact htoken
    · subst hi
      obtain ⟨_, ⟨⟩, -⟩ | ⟨hnamed, hreads⟩ := parseLine_cases hitem
      obtain ⟨htext, hassigned, rfl⟩ := hnamed
      exact ⟨htext, operandsSpelt_of_reads hreads, decode_encode (wellFormed_of_assigned hassigned), hassigned,
        fun _ => register_of_reads hreads⟩

end Sys2Proof.Asm
end

section
/-! SUPPORT. The mnemonic as a table (40_engine.md R148), and the cut of a run at a check point (R143, R154). -/

namespace Sys2Proof

/-- The mnemonics by opcode, with the one subcode `sub` names for opcode 7 (40_engine.md R148, D8). -/
def mnemonicTable (sub : Nat) : List Mnemonic :=
  [.ldr, .str, .add, .sub, .mov, .cmp, .b, [.beq, .bgt, .blt, .bne].getD sub .bxx,
    .and, .orr, .eor, .mvn, .lsl, .lsr, .out, .halt]

theorem mnemonicOf_eq_table : ∀ op sub : BitVec 4, some (mnemonicOf op sub) = (mnemonicTable sub.toNat)[op.toNat]? := by
  decide

end Sys2Proof

namespace Sys2Proof.Machine

variable {s : State}

/-- A check point is a phase boundary of an active run, or a wait it stands before (40_engine.md R142, R143). -/
theorem atCheckPoint_cases (hcp : s.atCheckPoint = true) : s.status = .running ∧
    (s.inPhase = none ∨ ∃ k rest h, s.inPhase = some ⟨.wait k :: rest, h⟩) := by
  obtain ⟨hrun, hat⟩ := (Bool.and_eq_true _ _).mp hcp
  refine ⟨of_decide_eq_true hrun, ?_⟩
  split at hat
  · exact .inl ‹_›
  · exact .inr ⟨_, _, _, ‹_›⟩
  · cases hat

/-- A boundary with the token set cuts the run and uses no grant: a run is in the poll only where it must wait (R142). -/
theorem boundary_cancelSeen (hc : s.cancelSeen = true) (hp : s.pollOk = true) : s.boundary = s.stopCancelled := by
  obtain ⟨-, hcut | ⟨hgo, hpoll, -⟩⟩ | ⟨hno, -⟩ | ⟨hno, -⟩ := boundary_cases s
  · exact hcut
  · simp [State.pollOk, hgo, hpoll] at hp
  all_goals simp [hc] at hno

/-- The engine's own check after the host's turn cuts the run at every check point (40_engine.md R143, R154). -/
theorem tick_cancelSeen (hcp : s.atCheckPoint = true) (hc : (hostTurn s).cancelSeen = true)
    (hp : (hostTurn s).pollOk = true) : tick s = (hostTurn s).stopCancelled := by
  obtain ⟨hrun, hnone | ⟨k, rest, h, hwait⟩⟩ := atCheckPoint_cases hcp
  · simp only [tick, hrun, hnone, if_true]
    exact boundary_cancelSeen hc hp
  · simp only [tick, hrun, hwait, if_true, State.performWait, hc]

/-- A micro-step that comes to rest is the whole step. -/
theorem step_eq_tick (hrest : (tick s).atRest = true) : step s = .next (tick s) := by
  rw [step_eq_stepMicro, stepMicro, microFuel, drive, if_pos hrest]

/-- A step whose check finds the token set leaves what the host's turn left, Cancelled (40_engine.md R154). -/
theorem step_cancelSeen (hcp : s.atCheckPoint = true) (hc : (hostTurn s).cancelSeen = true)
    (hp : (hostTurn s).pollOk = true) : step s = .next (hostTurn s).stopCancelled := by
  have htick := tick_cancelSeen hcp hc hp
  rw [step_eq_tick (by rw [htick]; rfl), htick]

/-- The host's turn whose only action is a cancel, in an active run (60_exceptions.md R254). -/
theorem hostTurn_cancel (hrun : s.status = .running) (ha : s.agenda = [[.cancel]]) :
    hostTurn s = { s with cancel := some true, agenda := [] } := by
  simp [hostTurn, ha, deliver, HostEvent.needsStop, HostEvent.apply, State.applyCancel, hrun]

end Sys2Proof.Machine
end

section
/-! The statements on the engine (40_engine.md): the decoded record, the cut of a cancelled run, and the step as the composition
of its micro-steps. -/

namespace Sys2Proof.Machine

/-- Settles O3: each field is a bit range read as a number, and the mnemonic stands in the table of 16 opcodes. -/
theorem decodeExtractsFields : Obligations.DecodeExtractsFields := by
  unfold Obligations.DecodeExtractsFields
  intro w
  have hopcode : w.toNat / 268435456 = w.toNat / 2 ^ 28 % 2 ^ 4 := by have := w.isLt; omega
  exact ⟨(opcodeOf_toNat w).trans hopcode, subcodeOf_toNat w, flagOf_iff w, immediateOf_toNat w, memoryAddressOf_toNat w,
    branchLabelOf_toNat w, rmOf_val w, rnOf_val w, rdOf_val w, mnemonicOf_eq_table (opcodeOf w) (subcodeOf w)⟩

/-- Settles O18: the check cuts the run in the state the host's turn left, which is the state itself but for the token and the
agenda. -/
theorem cancelledRunMutatesNothing : Obligations.CancelledRunMutatesNothing := by
  unfold Obligations.CancelledRunMutatesNothing
  refine ⟨fun s hcp hp hc ha => ?_, fun s hcp hp ha => ?_⟩
  · have hturn := hostTurn_empty ha
    rw [step_cancelSeen hcp (by simp [hturn, State.cancelSeen, hc]) (by rw [hturn]; exact hp), hturn]
    rfl
  · have hturn := hostTurn_cancel (atCheckPoint_cases hcp).1 ha
    rw [step_cancelSeen hcp (by rw [hturn]; rfl) (by rw [hturn]; exact hp), hturn]
    rfl

/-- Settles O24: FETCH and DECODE lead to EXECUTE of the word fetched, and EXECUTE answers in every state. -/
theorem stepRunsDecodedInstruction : Obligations.StepRunsDecodedInstruction := by
  unfold Obligations.StepRunsDecodedInstruction
  intro s hq hin
  obtain ⟨t, ht, hstep⟩ := stepInstruction_inside hin
  exact ⟨t, ht, (step_quiet hq).trans hstep⟩

/-- Settles O25: the drive runs each phase whole (`stepMicro_quiet`), and so the function is that of the step. -/
theorem microStepsComposeToInstruction : Obligations.MicroStepsComposeToInstruction := by
  unfold Obligations.MicroStepsComposeToInstruction
  intro s hq
  refine ⟨stepMicro_quiet hq, step_eq_stepMicro s, fun hin => ?_⟩
  rw [← step_eq_stepMicro]
  exact stepRunsDecodedInstruction s hq hin

/-- Settles O26: a quiet step outside Memory is the fault of FETCH. -/
theorem fetchOutOfRange : Obligations.FetchOutOfRange := by
  unfold Obligations.FetchOutOfRange
  exact fun s hq hout => (step_quiet hq).trans (stepInstruction_outside hout)

end Sys2Proof.Machine
end

section
/-! The statements on LDR and STR (41_load_store.md): the whole next state inside Memory, and what an instruction leaves of
Memory. -/

namespace Sys2Proof.Machine

/-- Memory after EXECUTE: as before, or as a STR inside Memory leaves it (41_load_store.md R172, R173). -/
theorem exec_mem_cases {i : Instr} {s t : State} (h : exec i s = .next t) :
    t.mem = s.mem ∨
      ∃ rd ea, i = .str rd ea ∧ ea.toNat < s.mem.size ∧ t.mem = s.mem.put ea.toNat (s.reg rd) := by
  cases exec_effect h
  case store rd ea instr inside => exact .inr ⟨rd, ea, instr, inside, rfl⟩
  all_goals exact .inl rfl

/-- Settles O46: the Memory after it is that of one write, whose laws are `Memory.put_wf`, `Memory.get_put_same` and
`Memory.get_put_other`. -/
theorem storeCompletes : Obligations.StoreCompletes := by
  unfold Obligations.StoreCompletes
  intro s rd ea hwf hea
  refine ⟨s.mem.put ea.toNat (s.reg rd), ?_, Memory.put_wf hwf hea, Memory.put_size .., Memory.get_put_same hwf _ _,
    fun _ => Memory.get_put_other hwf _⟩
  rw [exec_str_inside rd hea, BitVec.ofNat_toNat]

/-- Settles O56: Memory is as before, or one write inside it has been made by a STR, at that instruction's address. -/
theorem memoryFrame : Obligations.MemoryFrame := by
  unfold Obligations.MemoryFrame
  intro i s t hwf h
  obtain hmem | ⟨rd, ea, rfl, -, hmem⟩ := exec_mem_cases h
  · rw [hmem]
    exact ⟨rfl, fun _ _ _ _ _ => rfl, fun _ _ => rfl⟩
  · rw [hmem]
    refine ⟨Memory.put_size .., fun rd' ea' hi a ha => ?_, fun hstore => absurd rfl hstore⟩
    obtain ⟨-, rfl⟩ := Instr.str.inj hi
    exact Memory.get_put_other hwf _ ha

/-- Settles O45: the load inside Memory, with the Bus address written as a number. -/
theorem loadCompletes : Obligations.LoadCompletes := by
  unfold Obligations.LoadCompletes
  intro s rd ea hea
  rw [exec_ldr_inside rd hea, BitVec.ofNat_toNat]

end Sys2Proof.Machine
end

section
/-! SUPPORT. The ALU as a function of two words, said in numbers (42_alu.md R183 to R192), and what an ALU instruction does to a
state when its operands and its result are known words (R181, R182). -/

namespace Sys2Proof.Machine

/-! ### Operand B -/

/-- An immediate as an operand is the number its field reads (42_alu.md R182, D3). -/
theorem State.operandB_imm (s : State) (imm : BitVec 19) : s.operandB (.imm imm) = BitVec.ofNat 32 imm.toNat :=
  (BitVec.ofNat_toNat 32 imm).symm

/-- The word of an immediate has the number of its field: zero-extension loses nothing. -/
theorem immediate_word_toNat (imm : BitVec 19) : (BitVec.ofNat 32 imm.toNat).toNat = imm.toNat := by
  rw [BitVec.ofNat_toNat]
  exact BitVec.toNat_setWidth_of_le (by decide)

/-! ### Shifts by every amount: from 32 on, the shift of a bit vector is 0 too (42_alu.md R194, D7) -/

theorem shiftLeft_eq (a b : Word) : shiftLeft a b = a <<< b.toNat := by
  rw [shiftLeft]
  split
  · rfl
  · exact (BitVec.shiftLeft_eq_zero (by omega)).symm

theorem shiftRight_eq (a b : Word) : shiftRight a b = a >>> b.toNat := by
  rw [shiftRight]
  split
  · rfl
  · exact (BitVec.ushiftRight_eq_zero (by omega)).symm

/-! ### Results in numbers, operand B being a word of number `n` -/

section
variable (a : Word) {b : Word} {n : Nat}

theorem AluOp.apply_add (h : b.toNat = n) : AluOp.add.apply a b = BitVec.ofNat 32 (a.toNat + n) := by
  subst h
  exact BitVec.add_def a b

theorem AluOp.apply_sub (h : b.toNat = n) : AluOp.sub.apply a b = BitVec.ofNat 32 (2 ^ 32 + a.toNat - n) := by
  subst h
  have hb : b.toNat < 2 ^ 32 := b.isLt
  have horder : 2 ^ 32 + a.toNat - b.toNat = 2 ^ 32 - b.toNat + a.toNat := by omega
  rw [horder]
  exact BitVec.sub_def a b

theorem AluOp.apply_lsl (h : b.toNat = n) : AluOp.lsl.apply a b = BitVec.ofNat 32 (a.toNat * 2 ^ n) := by
  subst h
  apply BitVec.eq_of_toNat_eq
  calc (shiftLeft a b).toNat
    _ = (a <<< b.toNat).toNat := by rw [shiftLeft_eq]
    _ = a.toNat * 2 ^ b.toNat % 2 ^ 32 := by rw [BitVec.toNat_shiftLeft, Nat.shiftLeft_eq]
    _ = (BitVec.ofNat 32 (a.toNat * 2 ^ b.toNat)).toNat := (BitVec.toNat_ofNat _ _).symm

theorem AluOp.apply_lsr (h : b.toNat = n) : AluOp.lsr.apply a b = BitVec.ofNat 32 (a.toNat / 2 ^ n) := by
  subst h
  have hdiv : (shiftRight a b).toNat = a.toNat / 2 ^ b.toNat := by
    rw [shiftRight_eq, BitVec.toNat_ushiftRight, Nat.shiftRight_eq_div_pow]
  exact (BitVec.toNat_eq_nat.mp hdiv).2

theorem AluOp.apply_mvn (h : b.toNat = n) : AluOp.mvn.apply a b = BitVec.ofNat 32 (2 ^ 32 - 1 - n) := by
  subst h
  exact (BitVec.toNat_eq_nat.mp BitVec.toNat_not).2

/-- CMP gives 24, 21 or 19 by the order of the two numbers (42_alu.md R192). -/
theorem compareFlags_eq (h : b.toNat = n) :
    compareFlags a b = if a.toNat = n then 24#32 else if n < a.toNat then 21#32 else 19#32 := by
  subst h
  obtain ⟨rfl, hw⟩ | ⟨hlt, hw⟩ | ⟨hlt, hw⟩ := compareFlags_cases a b
  · rw [hw, if_pos rfl]
  · rw [hw, if_neg hlt.ne', if_pos hlt]
  · rw [hw, if_neg hlt.ne, if_neg hlt.not_gt]

end

/-! ### EXECUTE of an ALU instruction -/

section
variable {s : State} {i : Instr} {op : AluOp} {rd : Reg} {a : OperandA} {b : OperandB} {aWord bWord r : Word}

theorem exec_alu (hi : executeOps i = aluOps op a b (.writeReg rd)) (ha : s.operandA a = aWord) (hb : s.operandB b = bWord)
    (hr : op.apply aWord bWord = r) :
    exec i s = .next { s with regs := s.regs.set rd r, aluA := aWord, aluB := bWord, aluRes := r } := by
  subst ha hb hr
  rw [exec_eq_runExecute, hi]
  exact runExecute_alu op a b rd s

theorem exec_cmp (hi : executeOps i = cmpOps rd b) (hb : s.operandB b = bWord) (hr : compareFlags (s.reg rd) bWord = r) :
    exec i s = .next { s with flags := r, aluA := s.reg rd, aluB := bWord, aluRes := r } := by
  subst hb hr
  rw [exec_eq_runExecute, hi]
  exact runExecute_cmp rd b s

/-- The destination of an ALU instruction reads the result, whichever registers the operands were read from (42_alu.md R195). -/
theorem exec_alu_result {x y z : Word}
    (h : exec i s = .next { s with regs := s.regs.set rd r, aluA := x, aluB := y, aluRes := z }) :
    ∃ t, exec i s = .next t ∧ t.reg rd = r :=
  ⟨_, h, s.reg_setReg_same rd r⟩

end

end Sys2Proof.Machine
end

section
/-! The statements on the ALU instructions (42_alu.md): the whole next state of every one in both forms, and operands read before
the result is written. -/

namespace Sys2Proof.Machine

/-- Settles O38: a shift multiplies or divides by the power of two of its whole operand B. -/
theorem shiftResults : Obligations.ShiftResults := by
  unfold Obligations.ShiftResults
  intro s rd rn rm imm a done immWord
  have hb : s.operandB (.imm imm) = immWord := s.operandB_imm imm
  have hn : immWord.toNat = imm.toNat := immediate_word_toNat imm
  exact ⟨exec_alu rfl rfl rfl (AluOp.apply_lsl a rfl), exec_alu rfl rfl hb (AluOp.apply_lsl a hn),
    exec_alu rfl rfl rfl (AluOp.apply_lsr a rfl), exec_alu rfl rfl hb (AluOp.apply_lsr a hn)⟩

/-- Settles O36: operand B is x[Rm]; AND, ORR and EOR are the word operations themselves. -/
theorem registerFormResults : Obligations.RegisterFormResults := by
  unfold Obligations.RegisterFormResults
  intro s rd rn rm a b done
  exact ⟨exec_alu rfl rfl rfl (AluOp.apply_add a rfl), exec_alu rfl rfl rfl (AluOp.apply_sub a rfl),
    exec_alu rfl rfl rfl rfl, exec_alu rfl rfl rfl rfl, exec_alu rfl rfl rfl rfl⟩

/-- Settles O37: operand B is the word of the immediate, whose number is the immediate's. -/
theorem immediateFormResults : Obligations.ImmediateFormResults := by
  unfold Obligations.ImmediateFormResults
  intro s rd rn imm a b done
  have hb : s.operandB (.imm imm) = b := s.operandB_imm imm
  have hn : b.toNat = imm.toNat := immediate_word_toNat imm
  exact ⟨exec_alu rfl rfl hb (AluOp.apply_add a hn), exec_alu rfl rfl hb (AluOp.apply_sub a hn),
    exec_alu rfl rfl hb rfl, exec_alu rfl rfl hb rfl, exec_alu rfl rfl hb rfl⟩

/-- Settles O39: operand A is unused and shows 0; the complement is taken from 2^32 - 1. -/
theorem moveResults : Obligations.MoveResults := by
  unfold Obligations.MoveResults
  intro s rd rm imm done immWord
  have hb : s.operandB (.imm imm) = immWord := s.operandB_imm imm
  have hn : immWord.toNat = imm.toNat := immediate_word_toNat imm
  exact ⟨exec_alu rfl rfl rfl rfl, exec_alu rfl rfl hb rfl,
    exec_alu rfl rfl rfl (AluOp.apply_mvn 0#32 rfl), exec_alu rfl rfl hb (AluOp.apply_mvn 0#32 hn)⟩

/-- Settles O40: the flag word is the one of the order of x[Rd] and operand B. -/
theorem compareResults : Obligations.CompareResults := by
  unfold Obligations.CompareResults
  intro s rd rm imm flagWord done
  exact ⟨exec_cmp rfl rfl (compareFlags_eq (s.reg rd) rfl),
    exec_cmp rfl (s.operandB_imm imm) (compareFlags_eq (s.reg rd) (immediate_word_toNat imm))⟩

/-- Settles O42: the results above with one register for source and destination. -/
theorem sameRegisterOperands : Obligations.SameRegisterOperands := by
  unfold Obligations.SameRegisterOperands
  intro s r
  obtain ⟨hadd, -⟩ := registerFormResults s r r r
  obtain ⟨-, hsub, -⟩ := immediateFormResults s r r 1#19
  obtain ⟨hlsl, -⟩ := shiftResults s r r r 0#19
  obtain ⟨hmov, -⟩ := moveResults s r r 0#19
  refine ⟨?_, ?_, ?_, _, hmov, Vector.set_getElem_self _⟩
  · obtain ⟨t, ht, hr⟩ := exec_alu_result hadd
    exact ⟨t, ht, by rw [hr, BitVec.toNat_ofNat, Nat.two_mul]⟩
  · obtain ⟨t, ht, hr⟩ := exec_alu_result hsub
    refine ⟨t, ht, ?_⟩
    have hone : (1#19).toNat = 1 := rfl
    have horder : 2 ^ 32 + (s.reg r).toNat - 1 = (s.reg r).toNat + (2 ^ 32 - 1) := by omega
    rw [hr, BitVec.toNat_ofNat, hone, horder]
  · obtain ⟨t, ht, hr⟩ := exec_alu_result hlsl
    exact ⟨t, ht, by rw [hr, BitVec.toNat_ofNat]⟩

end Sys2Proof.Machine
end

section
/-! SUPPORT. What the family of an instruction says of its EXECUTE, for the branches and for the words of opcode 7 that spell no
instruction (43_branch.md R211, R218). -/

namespace Sys2Proof

/-- `B??` is the mnemonic of the two unassigned rows and of no other. -/
theorem Instr.family_unassigned_iff (i : Instr) : i.family = .unassigned ↔ i.mnemonic = .bxx := by
  cases i <;> simp [Instr.family, Instr.mnemonic]

end Sys2Proof

namespace Sys2Proof.Machine

/-- The word of a branch label has the number of its field: zero-extension loses nothing. -/
theorem label_word_toNat (label : BitVec 16) : (BitVec.ofNat 32 label.toNat).toNat = label.toNat := by
  rw [BitVec.ofNat_toNat]
  exact BitVec.toNat_setWidth_of_le (by decide)

section
variable {i : Instr} {s t : State}

/-- A branch writes PC and nothing else (43_branch.md R211). -/
theorem exec_branch_frame (hf : i.family = .branch) (h : exec i s = .next t) : t = { s with pc := t.pc } := by
  cases exec_effect h
  case branch => rfl
  case load | loadFault | store | storeFault => subst i; cases hf
  all_goals cases hf.symm.trans ‹_›

/-- A branch of a quiet machine leaves it quiet, so that the run goes on with the next FETCH. -/
theorem exec_branch_quiet (hf : i.family = .branch) (h : exec i s = .next t) (hq : s.quiet = true) : t.quiet = true := by
  rw [exec_branch_frame hf h]
  exact hq

/-- `B??` takes IllegalInstruction(CIR) and changes nothing else (43_branch.md R218). -/
theorem exec_unassigned (hf : i.family = .unassigned) (s : State) :
    exec i s = .next { s with status := .faulted ⟨.illegalInstruction, s.cir, .execute⟩ } := by
  cases i
  case bxxLow | bxxHigh => exact runExecute_bxx s
  all_goals cases hf

end

end Sys2Proof.Machine
end

section
/-! The statements on the branches (43_branch.md): the whole next state of each, a target outside Memory, and `B??`. -/

namespace Sys2Proof.Machine

/-- Settles O43: each branch has its predicate, a bit of FLAGS. -/
theorem branchResults : Obligations.BranchResults := by
  unfold Obligations.BranchResults
  intro s label jump
  exact ⟨exec_branch .always rfl s, exec_branch .eq rfl s, exec_branch .gt rfl s, exec_branch .lt rfl s,
    exec_branch .ne rfl s⟩

/-- Settles O44: B jumps to any label, and a branch leaves the machine quiet, so that the next step is the fault of FETCH. -/
theorem branchTargetIsCheckedByFetch : Obligations.BranchTargetIsCheckedByFetch := by
  unfold Obligations.BranchTargetIsCheckedByFetch
  refine ⟨fun s label => ⟨_, exec_branch .always rfl s, label_word_toNat label, rfl⟩, fun s t i hq hf h hout => ?_⟩
  have hqt : t.quiet = true := exec_branch_quiet hf h hq
  obtain ⟨-, hrun⟩ := (quiet_iff t).1 hqt
  exact ⟨hrun.status, _, fetchOutOfRange t hqt hout, rfl, rfl⟩

/-- Settles O53: EXECUTE of both rows is the one fault, and the step runs it on the word fetched, which CIR then holds; the run
having ended, no next FETCH is due. -/
theorem unassignedBranchFaults : Obligations.UnassignedBranchFaults := by
  unfold Obligations.UnassignedBranchFaults
  refine ⟨fun s sub => ⟨exec_unassigned rfl s, exec_unassigned rfl s⟩, fun s hq hin hw => ?_⟩
  obtain ⟨u, hu, hstep⟩ := stepRunsDecodedInstruction s hq hin
  have hf : (decode (s.mem.get s.pc.toNat)).family = .unassigned :=
    (Instr.family_unassigned_iff _).2 ((mnemonic_decode _).trans hw)
  rw [exec_unassigned hf] at hu
  cases hu
  exact hstep

end Sys2Proof.Machine
end

section
/-! SUPPORT. What OUT and HALT do to a state (44_out_halt.md R230, R231, R233), and what OUT_LOG is after any instruction. -/

namespace Sys2Proof.Machine

variable {s t : State} {i : Instr}

/-- The byte OUT delivers, as a number (44_out_halt.md R231, D9). -/
theorem outByteOf_eq {v : Word} {n : Nat} (h : v.toNat = n) : outByteOf v = BitVec.ofNat 8 (n % 256) := by
  subst h
  apply BitVec.eq_of_toNat_eq
  calc (outByteOf v).toNat
    _ = v.toNat % 256 := BitVec.toNat_setWidth 8 v
    _ = v.toNat % 256 % 256 := (Nat.mod_mod _ _).symm
    _ = (BitVec.ofNat 8 (v.toNat % 256)).toNat := (BitVec.toNat_ofNat (v.toNat % 256) 8).symm

/-- OUT of an operand of number `n` (44_out_halt.md R230). -/
theorem exec_out {b : OperandB} {n : Nat} (hi : executeOps i = outOps b) (hb : (s.operandB b).toNat = n) :
    exec i s = .next { s with outLog := s.outLog ++ [BitVec.ofNat 8 (n % 256)], outBusy := false } := by
  rw [exec_eq_runExecute, hi, runExecute_out, outByteOf_eq hb]

/-- HALT (44_out_halt.md R233). -/
theorem exec_halt (s : State) : exec .halt s = .next { s with status := .halted, phase := .fetch } := by
  rw [exec_eq_runExecute]
  exact runExecute_halt s

/-- OUT_LOG after EXECUTE: as before, or with one byte more at its end, which is the effect of OUT (44_out_halt.md R232). -/
theorem exec_outLog_cases (h : exec i s = .next t) :
    t.outLog = s.outLog ∨ ∃ b : Byte, t.outLog = s.outLog ++ [b] := by
  cases exec_effect h
  case output b _ => exact .inr ⟨b, rfl⟩
  all_goals exact .inl rfl

@[simp] theorem State.afterExecute_outLog (s : State) : s.afterExecute.outLog = s.outLog := by
  unfold State.afterExecute
  split <;> rfl

end Sys2Proof.Machine
end

section
/-! The statements on OUT and HALT (44_out_halt.md): the whole next state of each, and the growth of OUT_LOG in a quiet step. -/

namespace Sys2Proof.Machine

/-- Settles O33: a fault of FETCH leaves OUT_LOG, FETCH and DECODE leave it, and EXECUTE appends one byte or none. -/
theorem outputOnlyGrows : Obligations.OutputOnlyGrows := by
  unfold Obligations.OutputOnlyGrows
  intro s t hq ht
  obtain hin | hout := Nat.lt_or_ge s.pc.toNat s.mem.size
  · obtain ⟨u, hu, hstep⟩ := stepInstruction_inside hin
    rw [step_quiet hq, hstep] at ht
    cases ht
    rw [State.afterExecute_outLog]
    exact exec_outLog_cases (s := s.readyToExecute _) hu
  · rw [fetchOutOfRange s hq hout] at ht
    cases ht
    exact .inl rfl

/-- Settles O51: operand B is x[Rm], or the word of the immediate, whose number is the immediate's. -/
theorem outputResults : Obligations.OutputResults := by
  unfold Obligations.OutputResults
  intro s rm imm
  have himm : (s.operandB (.imm imm)).toNat = imm.toNat := by rw [State.operandB_imm, immediate_word_toNat]
  exact ⟨exec_out rfl rfl, exec_out rfl himm⟩

/-- Settles O52: HALT is its one effect in every state, and Halted is the good end. -/
theorem haltEndsRun : Obligations.HaltEndsRun := by
  unfold Obligations.HaltEndsRun
  exact fun s => ⟨_, exec_halt s, rfl, rfl⟩

end Sys2Proof.Machine
end

section
/-! SUPPORT. Everything one micro-step of the machine can do, with what observers are told of it: `RunTick` where a run is active
(40_engine.md R141 to R143, 60_exceptions.md R263), and the host's turn where none is. -/

namespace Sys2Proof.Machine

/-- What an active run can find after the host's turn: PAUSED, the grants, the token and the agenda may be others, and a token
once set stays set (60_exceptions.md R254). -/
inductive Attended (s : State) : State → Prop where
  | mk (p : Bool) (g : Nat) (c : Option Bool) (ag : List (List HostEvent)) (token : c = s.cancel ∨ c = some true) :
      Attended s { s with paused := p, grants := g, cancel := c, agenda := ag }

theorem Attended.refl (s : State) : Attended s s := .mk s.paused s.grants s.cancel s.agenda (.inl rfl)

theorem attended_hostTurn {s : State} (hs : s.status = .running) : Attended s (hostTurn s) := by
  obtain ⟨p, g, c, ag, hturn, hc⟩ := hostTurn_running hs
  rw [hturn]
  exact .mk p g c ag hc

/-- Every way a micro-step of an active run can go: the state it leaves and the notifications of it. -/
inductive RunTick (s : State) : State → List Notice → Prop where
  | boundary (u : State) (host : Attended s u) (place : s.inPhase = none) : RunTick s u.boundary []
  | finish (h : Held) (place : s.inPhase = some ⟨[], h⟩) : RunTick s s.endPhase [.phase s.phase.next]
  | cut (u : State) (host : Attended s u) (seen : u.cancelSeen = true) : RunTick s u.stopCancelled []
  | goesOn (u s' : State) (op next : Micro) (rest : List Micro) (h h' : Held) (host : Attended s u)
      (place : s.inPhase = some ⟨op :: next :: rest, h⟩) (run : op.run u.phase u h = .goes s' h') :
      RunTick s { s' with inPhase := some ⟨next :: rest, h'⟩ } (op.notices u h)
  | completes (u s' : State) (op : Micro) (h h' : Held) (host : Attended s u) (place : s.inPhase = some ⟨[op], h⟩)
      (run : op.run u.phase u h = .goes s' h') : RunTick s s'.endPhase (op.notices u h ++ [.phase s'.phase.next])
  | ends (u s' : State) (op : Micro) (rest : List Micro) (h : Held) (host : Attended s u)
      (place : s.inPhase = some ⟨op :: rest, h⟩) (run : op.run u.phase u h = .ends s') :
      RunTick s { s' with inPhase := none } (op.notices u h)

/-- A micro-step performed where the run stands goes on, completes its phase or ends the run. -/
theorem RunTick.perform {s u : State} {op : Micro} {rest : List Micro} {h : Held} (host : Attended s u)
    (place : s.inPhase = some ⟨op :: rest, h⟩) : RunTick s (u.perform op rest h) (u.performNotices op rest h) := by
  unfold State.perform State.performNotices
  cases hr : op.run u.phase u h with
  | goes s' h' =>
    cases rest with
    | nil => exact (Micro.run_goes hr).phase ▸ .completes u s' op h h' host place hr
    | cons next rest =>
      simp only [List.append_nil]
      exact .goesOn u s' op next rest h h' host place hr
  | ends s' =>
    simp only [List.append_nil]
    exact .ends u s' op rest h host place hr

/-- Only reset and run notify anything. -/
theorem HostEvent.notices_eq_nil {e : HostEvent} (h : e.needsStop = false) : e.notices = [] := by
  cases e
  case reset | run => cases h
  all_goals rfl

/-- No notification comes of the host's turn while a run is active: reset and run wait for its end (60_exceptions.md R256,
R257). -/
theorem deliverNotices_running {es : List HostEvent} {s : State} (hs : s.status = .running) : deliverNotices es s = [] := by
  induction es generalizing s with
  | nil => rfl
  | cons e es ih =>
    cases hn : e.needsStop
    · have hs' : (e.apply s).status = .running := by
        obtain ⟨rfl, -⟩ | ⟨rfl, -⟩ | ⟨_, -, -, h⟩ | ⟨_, _, _, -, h⟩ := apply_cases e s
        · cases hn
        · cases hn
        all_goals rw [h]; exact hs
      simp [deliverNotices, hn, HostEvent.notices_eq_nil hn, ih hs']
    · simp [deliverNotices, hn, hs]

theorem hostNotices_running {s : State} (hs : s.status = .running) : s.hostNotices = [] := by
  unfold State.hostNotices
  split
  · rfl
  · exact deliverNotices_running hs

/-- A micro-step of an active run goes one of these ways, and the observers are told what that way tells. -/
theorem tick_running {s : State} (hs : s.status = .running) : RunTick s (tick s) s.notices := by
  have host := attended_hostTurn hs
  cases hi : s.inPhase with
  | none =>
    simp only [tick, State.notices, hs, hi, if_true, hostNotices_running hs]
    exact .boundary _ host hi
  | some p =>
    obtain ⟨todo, h⟩ := p
    cases todo with
    | nil =>
      simp only [tick, State.notices, hs, hi, if_true]
      exact .finish h hi
    | cons op rest =>
      cases op
      case wait k =>
        simp only [tick, State.notices, hs, hi, if_true, hostNotices_running hs, List.nil_append, State.performWait]
        split
        · exact .cut _ host ‹_›
        · exact .perform host hi
      all_goals
        simp only [tick, State.notices, hs, hi, if_true]
        exact .perform (.refl s) hi

/-- With no run active only the host moves. -/
theorem tick_idle {s : State} (hs : s.status ≠ .running) : tick s = hostTurn s := if_neg hs

end Sys2Proof.Machine
end

section
/-! SUPPORT. The drive ends: every micro-step that does not come to rest leaves less to do, and `microFuel` is more than a legal
state can have (log 22). -/

namespace Sys2Proof.Machine

/-- How many phases of the instruction are to come after this one (40_engine.md R141). -/
def Phase.later : Phase → Nat
  | .fetch => 2
  | .decode => 1
  | .execute => 0

/-- A bound on the micro-steps to the next instruction boundary: a phase yet to start takes at most 13 with its boundary, one in
progress what is left of it. -/
def State.work (s : State) : Nat :=
  match s.inPhase with
  | none => 13 * s.phase.later + 13
  | some p => 13 * s.phase.later + p.todo.length + 1

theorem State.work_none {s : State} (h : s.inPhase = none) : s.work = 13 * s.phase.later + 13 := by
  simp [State.work, h]

theorem State.work_some {s : State} {p : Progress} (h : s.inPhase = some p) :
    s.work = 13 * s.phase.later + p.todo.length + 1 := by
  simp [State.work, h]

/-- A phase that ends leaves the machine at an instruction boundary, or the next phase is nearer to it. -/
theorem work_endPhase (s : State) : s.endPhase.atRest = true ∨ s.endPhase.work ≤ 13 * s.phase.later := by
  cases hp : s.phase
  case execute => exact .inl (by simp [State.atRest, hp, Phase.next])
  all_goals exact .inr (by simp [State.work, hp, Phase.next, Phase.later])

/-- A run that must wait at its boundary is at rest (40_engine.md R142). -/
theorem atRest_of_mustWait {s : State} (hi : s.inPhase = none) (hw : s.mustWait = true) : s.atRest = true := by
  simp [State.atRest, hi, hw]

/-- A boundary ends the run, waits in the poll, or starts a phase of at most eleven micro-steps. -/
theorem work_boundary {s : State} (hi : s.inPhase = none) : s.boundary.atRest = true ∨ s.boundary.work < s.work := by
  obtain ⟨-, hb | ⟨-, -, hb⟩⟩ | ⟨-, hw, hb⟩ | ⟨-, -, hb⟩ := boundary_cases s <;> rw [hb]
  · exact .inl rfl
  · exact .inl rfl
  · exact .inl (atRest_of_mustWait (s := { s with polling := true }) hi hw)
  · have hlen := (phaseOps_length s.useGrant).2
    have hphase : s.useGrant.startPhase.phase = s.phase := by rw [useGrant_eq]; rfl
    rw [State.work_none hi, State.work_some (State.startPhase_inPhase _), hphase]
    exact .inr (by simp only; omega)

/-- No run is active, or one that has not started its first phase: all the host's turn can leave where no run was active. -/
def State.unstarted (s : State) : Prop := s.status = .running → s.inPhase = none ∧ s.phase = .fetch

theorem State.unstarted.atRest {s : State} (h : s.unstarted) : s.atRest = true := by
  by_cases hs : s.status = .running
  · obtain ⟨hi, hp⟩ := h hs
    simp [State.atRest, hi, hp]
  · simp [State.atRest, hs]

/-- A control of the host's starts no phase. -/
theorem State.unstarted.apply {s : State} (hs : s.unstarted) (e : HostEvent) : (e.apply s).unstarted := by
  obtain ⟨-, h⟩ | ⟨-, h⟩ | ⟨_, -, -, h⟩ | ⟨_, _, _, -, h⟩ := apply_cases e s <;> rw [h]
  · exact nofun
  · exact fun _ => ⟨rfl, rfl⟩
  · exact hs
  · exact hs

theorem State.unstarted.deliver {es : List HostEvent} {s : State} (hs : s.unstarted) : (deliver es s).unstarted := by
  induction es generalizing s with
  | nil => exact hs
  | cons e es ih =>
    rw [Machine.deliver]
    split
    · exact hs
    · exact ih (hs.apply e)

/-- With no run active the machine is at rest after the host's turn. -/
theorem hostTurn_atRest {s : State} (hs : s.status ≠ .running) : (hostTurn s).atRest = true := by
  have hidle : s.unstarted := fun h => absurd h hs
  unfold hostTurn
  split
  · exact hidle.atRest
  · rename_i later _
    exact (State.unstarted.deliver (s := { s with agenda := later }) hidle).atRest

/-- With no run active a step is the host's turn. -/
theorem step_idle {s : State} (hs : s.status ≠ .running) : step s = .next (hostTurn s) := by
  have hrest : (tick s).atRest = true := by
    rw [tick_idle hs]
    exact hostTurn_atRest hs
  rw [step_eq_tick hrest, tick_idle hs]

/-- A micro-step comes to rest or leaves less to do. -/
theorem tick_work (s : State) : (tick s).atRest = true ∨ (tick s).work < s.work := by
  by_cases hs : s.status = .running
  · have hrun := tick_running hs
    generalize tick s = t, s.notices = ns at hrun
    cases hrun
    case boundary u host place =>
      cases host
      exact work_boundary place
    case finish h place =>
      rw [State.work_some place]
      exact (work_endPhase s).imp_right (by simp only [List.length_nil]; omega)
    case cut => exact .inl rfl
    case goesOn u s' op next rest h h' host place run =>
      have hphase := (Micro.run_goes run).phase
      cases host
      rw [State.work_some place, State.work_some (p := ⟨next :: rest, h'⟩) rfl]
      simp only at hphase
      simp [hphase]
    case completes u s' op h h' host place run =>
      have hphase := (Micro.run_goes run).phase
      cases host
      simp only at hphase
      rw [State.work_some place, ← hphase]
      exact (work_endPhase s').imp_right (by simp only [List.length_cons]; omega)
    case ends u s' op rest h host place run =>
      exact .inl (by simp [State.atRest, Micro.run_ends_status run])
  · rw [tick_idle hs]
    exact .inl (hostTurn_atRest hs)

/-- Enough fuel brings the machine to rest. -/
theorem drive_total {fuel : Nat} {s : State} (h : s.work < fuel) : ∃ t, drive fuel s = some t := by
  induction fuel generalizing s with
  | zero => cases h
  | succ fuel ih =>
    rw [drive]
    split
    · exact ⟨_, rfl⟩
    · rename_i hrest
      have hless := (tick_work s).resolve_left hrest
      exact ih (by omega)

/-- A legal position is within one phase of the machine, and no phase has more than eleven micro-steps. -/
theorem work_lt_microFuel {s : State} (h : s.positionOk = true) : s.work < microFuel := by
  have hlater : s.phase.later ≤ 2 := by cases s.phase <;> decide
  have hfuel : microFuel = 64 := rfl
  cases hi : s.inPhase with
  | none => rw [State.work_none hi]; omega
  | some p =>
    obtain ⟨-, hsuffix, -⟩ := (positionOk_some (todo := p.todo) (h := p.held) hi).1 h
    have hlen := hsuffix.length_le.trans (phaseOps_length s).2
    rw [State.work_some hi]
    omega

end Sys2Proof.Machine
end

section
/-! SUPPORT. The host's turn for the controls that a check point meets: reset and run that find a run active, and the cut they
cause (60_exceptions.md R256, R257); and the token, which every micro-step keeps (R254). -/

namespace Sys2Proof.Machine

variable {s : State}

/-- At a phase boundary the host has its turn before the checks (40_engine.md R142). -/
theorem tick_boundary (hs : s.status = .running) (hi : s.inPhase = none) : tick s = (hostTurn s).boundary := by
  simp only [tick, hs, hi, if_true]

/-- A boundary that nothing holds and nothing cuts starts the phase that is due, with a grant if one is needed (R142). -/
theorem boundary_starts (hw : s.mustWait = false) (hc : s.cancelSeen = false) : s.boundary = s.useGrant.startPhase := by
  simp [State.boundary, hw, hc]

/-- A boundary held by a pause and not cut waits in the poll (R142). -/
theorem boundary_waits (hw : s.mustWait = true) (hc : s.cancelSeen = false) : s.boundary = { s with polling := true } := by
  simp [State.boundary, hw, hc]

/-- A boundary that is not held and is cut ends the run; one that leaves the poll consumes the grant it used (R142). -/
theorem boundary_cut (hw : s.mustWait = false) (hc : s.cancelSeen = true) :
    s.boundary = if s.polling then s.useGrant.stopCancelled else s.stopCancelled := by
  simp [State.boundary, hw, hc]

theorem mustWait_iff : s.mustWait = true ↔ s.paused = true ∧ s.grants = 0 := by
  simp [State.mustWait]

theorem cancelSeen_false_iff : s.cancelSeen = false ↔ s.cancel ≠ some true := by
  simp [State.cancelSeen]

/-- A reset or run that finds a run active cancels it and waits at the head of the agenda (60_exceptions.md R256, R257). -/
theorem hostTurn_needsStop {e : HostEvent} {es : List HostEvent} {later : List (List HostEvent)}
    (hs : s.status = .running) (he : e.needsStop = true) (ha : s.agenda = (e :: es) :: later) :
    hostTurn s = { s with cancel := some true } := by
  simp [hostTurn, ha, deliver, he, hs]

/-- With no run active a step carries out the one control of the host's turn. -/
theorem step_control {e : HostEvent} {later : List (List HostEvent)} (hs : s.status ≠ .running)
    (ha : s.agenda = [e] :: later) : step s = .next (e.apply { s with agenda := later }) := by
  rw [step_idle hs]
  simp [hostTurn, ha, deliver, hs]

/-- A step whose check finds the token set leaves what the host's turn left, Cancelled, and may have consumed a grant
(40_engine.md R142, R154). -/
theorem step_cut (hcp : s.atCheckPoint = true) (hc : (hostTurn s).cancelSeen = true) :
    ∃ g, step s = .next { (hostTurn s).stopCancelled with grants := g } := by
  have htick : ∃ g, tick s = { (hostTurn s).stopCancelled with grants := g } := by
    obtain ⟨hrun, hnone | ⟨k, rest, h, hwait⟩⟩ := atCheckPoint_cases hcp
    · rw [tick_boundary hrun hnone]
      obtain ⟨-, hb | ⟨-, -, hb⟩⟩ | ⟨hno, -⟩ | ⟨hno, -⟩ := boundary_cases (hostTurn s)
      · exact ⟨_, hb⟩
      · rw [hb, useGrant_eq]
        exact ⟨_, rfl⟩
      all_goals simp [hc] at hno
    · simp only [tick, hrun, hwait, if_true, State.performWait, hc]
      exact ⟨_, rfl⟩
  obtain ⟨g, hg⟩ := htick
  exact ⟨g, by rw [step_eq_tick (by rw [hg]; rfl), hg]⟩

/-- No action of the host's short of reset and run takes the token back (60_exceptions.md R254). -/
theorem apply_cancel {e : HostEvent} (he : e.needsStop = false) (hc : s.cancel = some true) :
    (e.apply s).cancel = some true := by
  obtain ⟨rfl, -⟩ | ⟨rfl, -⟩ | ⟨_, -, -, h⟩ | ⟨_, _, _, hc', h⟩ := apply_cases e s
  · cases he
  · cases he
  · rw [h]
    exact hc
  · rw [h]
    obtain rfl | rfl := hc'
    · exact hc
    · rfl

theorem Attended.cancel {u : State} (host : Attended s u) (hc : s.cancel = some true) : u.cancel = some true := by
  obtain ⟨_, _, _, _, rfl | rfl⟩ := host
  · exact hc
  · rfl

/-- A micro-step of an active run keeps a token that is set, whatever the host does meanwhile (60_exceptions.md R254). -/
theorem tick_cancel (hs : s.status = .running) (hc : s.cancel = some true) : (tick s).cancel = some true := by
  have hrun := tick_running hs
  generalize tick s = t, s.notices = ns at hrun
  cases hrun
  case boundary u host _ =>
    have hu := host.cancel hc
    obtain ⟨-, hb | ⟨-, -, hb⟩⟩ | ⟨-, -, hb⟩ | ⟨-, -, hb⟩ := boundary_cases u <;> rw [hb] <;>
      simp [useGrant_eq, hu]
  case finish => exact hc
  case cut u host _ =>
    have hu := host.cancel hc
    exact hu
  case goesOn u s' _ _ _ _ _ host _ run | completes u s' _ _ _ host _ run =>
    exact (Micro.run_goes run).cancel.trans (host.cancel hc)
  case ends u s' _ _ _ host _ run =>
    have hu := host.cancel hc
    obtain ⟨-, rfl⟩ | ⟨_, -, -, rfl⟩ | ⟨-, rfl⟩ := Micro.run_ends run <;> exact hu

end Sys2Proof.Machine
end

section
/-! SUPPORT. A paused run with one grant performs one phase and is held at the next boundary (60_exceptions.md R253, 40_engine.md
R156); what a phase does depends neither on PAUSED nor on the grants. -/

namespace Sys2Proof.Machine

/-- PAUSED and the grants put in. -/
def State.withPause (s : State) (p : Bool) (g : Nat) : State := { s with paused := p, grants := g }

/-- A result with PAUSED and the grants put in its state. -/
def MicroResult.withPause (p : Bool) (g : Nat) : MicroResult → MicroResult
  | .goes s h => .goes (s.withPause p g) h
  | .ends s => .ends (s.withPause p g)

/-- The end of a phase with PAUSED and the grants put in its state. -/
def PhaseEnd.withPause (p : Bool) (g : Nat) : PhaseEnd → PhaseEnd
  | .complete s => .complete (s.withPause p g)
  | .ended s => .ended (s.withPause p g)

/-- What a micro-step does does not depend on PAUSED and the grants. -/
theorem Micro.run_withPause (ph : Phase) (s : State) (h : Held) (op : Micro) (p : Bool) (g : Nat) :
    op.run ph (s.withPause p g) h = (op.run ph s h).withPause p g := by
  cases op
  case memRead a => cases a <;> simp only [Micro.run, AddrSource.value, State.withPause] <;> split <;> rfl
  case memWrite a => cases a <;> simp only [Micro.run, AddrSource.value, State.withPause] <;> split <;> rfl
  case operands a b => cases a <;> cases b <;> rfl
  case holdOperand b => cases b <;> rfl
  case branch c target => simp only [Micro.run]; split <;> rfl
  all_goals rfl

/-- What a phase does does not depend on PAUSED and the grants. -/
theorem runMicros_withPause (ph : Phase) (ops : List Micro) (s : State) (h : Held) (p : Bool) (g : Nat) :
    runMicros ph ops (s.withPause p g) h = (runMicros ph ops s h).withPause p g := by
  induction ops generalizing s h with
  | nil => rfl
  | cons op rest ih =>
    simp only [runMicros, Micro.run_withPause]
    cases op.run ph s h with
    | goes s' h' => exact ih s' h'
    | ends s' => rfl

/-- The state the phase that is due leaves when it is run whole (40_engine.md R141). -/
def State.onePhase (s : State) : State :=
  match runMicros s.phase s.phaseOps s {} with
  | .complete t => t.endPhase
  | .ended t => t

section
variable {s : State} (h : Undisturbed s)
include h

/-- A boundary that the host's turn leaves paused with one grant starts the phase that is due and consumes the grant, whether the
run was in the poll or just arrived (40_engine.md R142). -/
theorem Undisturbed.tick_grant {b : State} {inPoll : Bool} (hs : b.status = .running) (hi : b.inPhase = none)
    (hturn : hostTurn b = { s.withPause true 1 with polling := inPoll }) :
    Machine.tick b = (s.withPause true 0).startPhase := by
  rw [tick_boundary hs hi, hturn]
  exact boundary_starts (s := { s.withPause true 1 with polling := inPoll }) rfl h.cancelSeen

/-- A grant already given starts the phase. -/
theorem Undisturbed.tick_granted : Machine.tick (s.withPause true 1) = (s.withPause true 0).startPhase :=
  h.tick_grant (inPoll := s.polling) h.status h.inPhase (hostTurn_empty h.agenda)

/-- A step event that comes at the boundary starts it too (60_exceptions.md R253). -/
theorem Undisturbed.tick_stepEvent (inPoll : Bool) :
    Machine.tick { s.withPause true 0 with polling := inPoll, agenda := [[.step]] } = (s.withPause true 0).startPhase := by
  have hturn : hostTurn { s.withPause true 0 with polling := inPoll, agenda := [[.step]] } =
      { s.withPause true 1 with polling := inPoll } := by
    simp [hostTurn, deliver, HostEvent.needsStop, HostEvent.apply, State.applyStep, State.withPause, h.agenda]
  exact h.tick_grant h.status h.inPhase hturn

/-- A paused run whose phase starts with its last grant performs that phase, and is held at the next boundary if it is still
active (60_exceptions.md R253). -/
theorem Undisturbed.step_onePhase {b : State} (hb : Machine.tick b = (s.withPause true 0).startPhase)
    {t : State} (ht : s.onePhase = t) : step b = .next (t.withPause true 0) := by
  subst ht
  have hstart : (s.withPause true 0).startPhase = { s.withPause true 0 with inPhase := some ⟨s.phaseOps, {}⟩ } := by
    simp [State.startPhase, State.withPause, State.phaseOps, h.polling]
  have hne : s.phaseOps ≠ [] := List.ne_nil_of_length_pos (phaseOps_length s).1
  have hlen : 63 = s.phaseOps.length + (63 - s.phaseOps.length) := by have := (phaseOps_length s).2; omega
  have hrest : (Machine.tick b).atRest = false := by simp [hb, State.atRest, State.withPause, h.status]
  have hrun : runMicros (s.withPause true 0).phase s.phaseOps (s.withPause true 0) {} =
      (runMicros s.phase s.phaseOps s {}).withPause true 0 := runMicros_withPause ..
  have hdrive : Machine.drive microFuel b = some (s.onePhase.withPause true 0) := by
    rw [show microFuel = 63 + 1 from rfl, Machine.drive, hrest, if_neg Bool.false_ne_true, hb, hstart, hlen,
      drive_phase s.phaseOps (s.withPause true 0) {} _ hne h.status h.agenda h.cancelSeen, hrun,
      State.onePhase]
    cases hr : runMicros s.phase s.phaseOps s {} with
    | complete t => exact if_pos (atRest_of_mustWait rfl rfl)
    | ended t => exact congrArg some (State.clear_inPhase ((runMicros_ended hr).2.trans h.inPhase))
  rw [step_eq_stepMicro, stepMicro, hdrive]

/-- FETCH inside Memory leaves the boundary before DECODE. -/
theorem Undisturbed.onePhase_fetch (hp : s.phase = .fetch) (hin : s.pc.toNat < s.mem.size) :
    s.onePhase = s.fetched (s.mem.get s.pc.toNat) := by
  have hrun : runMicros s.phase s.phaseOps s {} = fetchPhase s := by simp [State.phaseOps, hp, fetchPhase]
  rw [State.onePhase, hrun, fetchPhase_inside hin]
  simp [State.endPhase, State.fetched, hp, Phase.next, h.inPhase]

/-- DECODE leaves the boundary before EXECUTE. -/
theorem Undisturbed.onePhase_decode (hp : s.phase = .decode) : s.onePhase = { s with ir := some s.cir, phase := .execute } := by
  have hrun : runMicros s.phase s.phaseOps s {} = decodePhase s := by simp [State.phaseOps, hp, decodePhase]
  rw [State.onePhase, hrun, decodePhase_eq]
  simp [State.endPhase, hp, Phase.next, h.inPhase]

/-- EXECUTE leaves the boundary before the next FETCH, unless the run has ended. -/
theorem Undisturbed.onePhase_execute (hp : s.phase = .execute) {t : State} (ht : exec (decode s.cir) s = .next t) :
    s.onePhase = t.afterExecute := by
  have hrun : runMicros s.phase s.phaseOps s {} = runMicros .execute (executeOps (decode s.cir)) s {} := by
    simp [State.phaseOps, hp]
  rw [exec_eq_runExecute, runExecute] at ht
  rw [State.onePhase, hrun]
  cases hr : runMicros .execute (executeOps (decode s.cir)) s {} <;> rw [hr] at ht <;> cases ht
  case complete u =>
    have hk := runMicros_complete hr
    have hs : u.status = .running := hk.status.trans h.status
    simp [PhaseEnd.state, State.afterExecute, hs, State.endPhase, hk.phase, hp, Phase.next, hk.inPhase, h.inPhase]
  case ended u => exact (if_neg (runMicros_ended hr).1).symm

end

end Sys2Proof.Machine
end

section
/-! SUPPORT. What notifications tell (60_exceptions.md R263), place by place: the slots, the Bus registers, OUT_BUSY and PHASE in
one predicate, which every micro-step, every action of the host's and so every `tick` meets. -/

namespace Sys2Proof.Machine

/-- A place observers are told of. -/
inductive Place where
  | slot (i : Fin 23)
  | busAddr
  | busData
  | busCtrl
  | outBusy
  | phase

/-- What a place holds, as the notification that would tell it. -/
def Place.read (s : State) : Place → Notice
  | .slot i => .slot i (s.slot i)
  | .busAddr => .busAddr s.busAddr
  | .busData => .busData s.busData
  | .busCtrl => .busCtrl s.busCtrl
  | .outBusy => .outBusy s.outBusy
  | .phase => .phase s.phase

/-- The place a notification is of; FetchAt tells of no write. -/
def Notice.place : Notice → Option Place
  | .fetchAt _ => none
  | .phase _ => some .phase
  | .slot i _ => some (.slot i)
  | .busAddr _ => some .busAddr
  | .busData _ => some .busData
  | .busCtrl _ => some .busCtrl
  | .outBusy _ => some .outBusy

theorem Place.place_read (c : Place) (s : State) : (c.read s).place = some c := by
  cases c <;> rfl

/-- The notifications tell exactly what changes from `s` to `t`: a place notified holds what was notified, and a place holds what
was notified of it or what it held. -/
structure Tells (ns : List Notice) (s t : State) : Prop where
  told : ∀ n ∈ ns, ∀ c, n.place = some c → c.read t = n
  untold : ∀ c : Place, c.read t ∈ ns ∨ c.read t = c.read s

namespace Tells

variable {ns ms : List Notice} {s t u : State}

theorem noticesTell (h : Tells ns s t) : noticesTell ns s t :=
  ⟨fun i _ hn => (Notice.slot.inj (h.told _ hn (.slot i) rfl)).2,
    fun i hn => (h.untold (.slot i)).elim (absurd · (hn _)) (fun e => (Notice.slot.inj e).2),
    fun _ hn => Notice.busAddr.inj (h.told _ hn .busAddr rfl),
    fun hn => (h.untold .busAddr).elim (absurd · (hn _)) Notice.busAddr.inj,
    fun _ hn => Notice.busData.inj (h.told _ hn .busData rfl),
    fun hn => (h.untold .busData).elim (absurd · (hn _)) Notice.busData.inj,
    fun _ hn => Notice.busCtrl.inj (h.told _ hn .busCtrl rfl),
    fun hn => (h.untold .busCtrl).elim (absurd · (hn _)) Notice.busCtrl.inj,
    fun _ hn => Notice.outBusy.inj (h.told _ hn .outBusy rfl),
    fun hn => (h.untold .outBusy).elim (absurd · (hn _)) Notice.outBusy.inj⟩

theorem phase_told (h : Tells ns s t) {p : Phase} (hp : .phase p ∈ ns) : t.phase = p :=
  Notice.phase.inj (h.told _ hp .phase rfl)

theorem phase_mem (h : Tells ns s t) (hp : t.phase ≠ s.phase) : .phase t.phase ∈ ns :=
  (h.untold .phase).resolve_right (fun e => hp (Notice.phase.inj e))

/-- Notifications of what some places hold then, where no other place changes. -/
theorem writes (cs : List Place) (h : ∀ c ∉ cs, c.read t = c.read s) : Tells (cs.map (·.read t)) s t where
  told := by
    intro n hn c hc
    obtain ⟨c', -, rfl⟩ := List.mem_map.1 hn
    obtain rfl : c' = c := by simpa [Place.place_read] using hc
    rfl
  untold c := by
    by_cases hc : c ∈ cs
    · exact .inl (List.mem_map_of_mem hc)
    · exact .inr (h c hc)

/-- Nothing is told where no place changes. -/
theorem silent (h : ∀ c : Place, c.read t = c.read s) : Tells [] s t := writes [] (fun c _ => h c)

/-- What is told of two changes, where the second keeps what was told of the first. -/
theorem append (h : Tells ns s t) (k : Tells ms t u) (hkeep : ∀ n ∈ ns, ∀ c, n.place = some c → c.read u = n) :
    Tells (ns ++ ms) s u where
  told n hn := (List.mem_append.1 hn).elim (hkeep n) (k.told n)
  untold c := by
    obtain hm | heq := k.untold c
    · exact .inl (List.mem_append_right _ hm)
    · obtain hn | heq' := h.untold c
      · exact .inl (List.mem_append_left _ (heq ▸ hn))
      · exact .inr (heq.trans heq')

/-- What is told depends on what the places hold alone. -/
theorem congr {s' t' : State} (h : Tells ns s t) (hs : ∀ c : Place, c.read s = c.read s')
    (ht : ∀ c : Place, c.read t = c.read t') : Tells ns s' t' where
  told n hn c hc := (ht c).symm.trans (h.told n hn c hc)
  untold c := by rw [← hs, ← ht]; exact h.untold c

end Tells

/-! ### The places after each write -/

section
variable (s : State)

theorem slot_slotOfReg (r : Reg) : s.slot (slotOfReg r) = s.reg r := by simp [State.slot, slotOfReg]

theorem slot_setReg_other {r : Reg} {v : Word} {i : Fin 23} (h : i ≠ slotOfReg r) : (s.setReg r v).slot i = s.slot i := by
  unfold State.slot
  split
  · exact s.reg_setReg_other r _ v (fun e => h (by simp [slotOfReg, ← e]))
  · rfl

theorem slot_setPc (v : Word) (i : Fin 23) : (s.setPc v).slot i = if i = 16 then v else s.slot i := by
  fin_cases i <;> rfl

theorem slot_latchInstruction (v : Word) (i : Fin 23) :
    (s.latchInstruction v).slot i = if i = 17 then v else if i = 16 then s.pc + 1#32 else s.slot i := by
  fin_cases i <;> rfl

theorem slot_setIr (v : Word) (i : Fin 23) : (s.setIr v).slot i = if i = 18 then v else s.slot i := by
  fin_cases i <;> rfl

theorem slot_setAluOperands (a b : Word) (i : Fin 23) :
    (s.setAluOperands a b).slot i = if i = 19 then a else if i = 20 then b else s.slot i := by
  fin_cases i <;> rfl

theorem slot_setAluRes (v : Word) (i : Fin 23) : (s.setAluRes v).slot i = if i = 21 then v else s.slot i := by
  fin_cases i <;> rfl

theorem slot_setFlags (v : Word) (i : Fin 23) : (s.setFlags v).slot i = if i = 22 then v else s.slot i := by
  fin_cases i <;> rfl

end

section
variable (s : State) {c : Place}

theorem read_setReg {r : Reg} {v : Word} (hc : c ∉ [.slot (slotOfReg r)]) : c.read (s.setReg r v) = c.read s := by
  cases c
  case slot i => exact congrArg (Notice.slot i) (slot_setReg_other s (by simpa using hc))
  all_goals rfl

theorem read_setPc {v : Word} (hc : c ∉ [.slot 16]) : c.read (s.setPc v) = c.read s := by
  cases c <;> simp_all [Place.read, slot_setPc]

theorem read_latchInstruction {v : Word} (hc : c ∉ [.slot 17, .slot 16]) : c.read (s.latchInstruction v) = c.read s := by
  cases c <;> simp_all [Place.read, slot_latchInstruction]

theorem read_setIr {v : Word} (hc : c ∉ [.slot 18]) : c.read (s.setIr v) = c.read s := by
  cases c <;> simp_all [Place.read, slot_setIr]

theorem read_setAluOperands {a b : Word} (hc : c ∉ [.slot 19, .slot 20]) : c.read (s.setAluOperands a b) = c.read s := by
  cases c <;> simp_all [Place.read, slot_setAluOperands]

theorem read_setAluRes {v : Word} (hc : c ∉ [.slot 21]) : c.read (s.setAluRes v) = c.read s := by
  cases c <;> simp_all [Place.read, slot_setAluRes]

theorem read_setFlags {v : Word} (hc : c ∉ [.slot 22]) : c.read (s.setFlags v) = c.read s := by
  cases c <;> simp_all [Place.read, slot_setFlags]

theorem read_setBusAddr {v : Word} (hc : c ∉ [.busAddr]) : c.read (s.setBusAddr v) = c.read s := by
  cases c
  case busAddr => exact absurd List.mem_cons_self hc
  all_goals rfl

theorem read_setBusData {v : Word} (hc : c ∉ [.busData]) : c.read (s.setBusData v) = c.read s := by
  cases c
  case busData => exact absurd List.mem_cons_self hc
  all_goals rfl

theorem read_setBusCtrl {v : BusCtrl} (hc : c ∉ [.busCtrl]) : c.read (s.setBusCtrl v) = c.read s := by
  cases c
  case busCtrl => exact absurd List.mem_cons_self hc
  all_goals rfl

theorem read_setOutBusy {b : Bool} (hc : c ∉ [.outBusy]) : c.read (s.setOutBusy b) = c.read s := by
  cases c
  case outBusy => exact absurd List.mem_cons_self hc
  all_goals rfl

end

/-- The control state but PHASE, OUT_LOG and Memory are no places. -/
theorem read_control {s t : State}
    (h : t = { s with
      mem := t.mem, outLog := t.outLog, status := t.status, paused := t.paused, grants := t.grants, cancel := t.cancel,
      inPhase := t.inPhase, polling := t.polling, agenda := t.agenda })
    (c : Place) : c.read t = c.read s := by
  rw [h]
  cases c <;> rfl

/-- The control state is no place but PHASE. -/
theorem read_phase {s t : State}
    (h : t = { s with phase := t.phase, status := t.status, cancel := t.cancel, inPhase := t.inPhase, polling := t.polling })
    (c : Place) (hc : c ∉ [.phase]) : c.read t = c.read s := by
  rw [h]
  cases c
  case phase => exact absurd List.mem_cons_self hc
  all_goals rfl

/-- A micro-step after which the phase goes on (60_exceptions.md R263). -/
theorem Micro.run_goes_tells {ph : Phase} {s s' : State} {h h' : Held} {op : Micro} (hr : op.run ph s h = .goes s' h') :
    Tells (op.notices s h) s s' := by
  cases op <;> simp only [Micro.run] at hr
  case memRead a => split at hr <;> cases hr; exact .silent fun _ => rfl
  case memWrite a => split at hr <;> cases hr; exact .silent (read_control rfl)
  case halt | raiseIllegal => cases hr
  all_goals cases hr
  case busAddr => exact .writes [.busAddr] fun _ => read_setBusAddr s
  case busCtrl => exact .writes [.busCtrl] fun _ => read_setBusCtrl s
  case busData => exact .writes [.busData] fun _ => read_setBusData s
  case latchInstruction => exact .writes [.slot 17, .slot 16] fun _ => read_latchInstruction s
  case storeIr => exact .writes [.slot 18] fun _ => read_setIr s
  case operands => exact .writes [.slot 19, .slot 20] fun _ => read_setAluOperands s
  case alu => exact .writes [.slot 21] fun _ => read_setAluRes s
  case writeReg rd =>
    have htell := Tells.writes [.slot (slotOfReg rd)] fun _ => read_setReg s (r := rd) (v := h.val)
    simpa [Place.read, slot_slotOfReg, Micro.notices] using htell
  case writeFlags => exact .writes [.slot 22] fun _ => read_setFlags s
  case branch =>
    simp only [Micro.notices]
    split
    · exact .writes [.slot 16] fun _ => read_setPc s
    · exact .silent fun _ => rfl
  case outBusy => exact .writes [.outBusy] fun _ => read_setOutBusy s
  case outByte => exact .silent (read_control rfl)
  case notifyFetch =>
    refine ⟨?_, fun c => .inr rfl⟩
    simp [Micro.notices, Notice.place]
  all_goals exact .silent fun _ => rfl

/-- A micro-step that ends the run: HALT writes PHASE, a fault no place. -/
theorem Micro.run_ends_tells {ph : Phase} {s s' : State} {h : Held} {op : Micro} (hr : op.run ph s h = .ends s') :
    Tells (op.notices s h) s s' := by
  obtain ⟨rfl, rfl⟩ | ⟨a, rfl | rfl, -, rfl⟩ | ⟨rfl, rfl⟩ := Micro.run_ends hr
  · exact .writes (t := s.halt) [.phase] (read_phase rfl)
  all_goals exact .silent (read_control rfl)

/-- A micro-step after which the phase goes on notifies no phase. -/
theorem Micro.phase_not_mem_notices {ph p : Phase} {s s' : State} {h h' : Held} {op : Micro}
    (hr : op.run ph s h = .goes s' h') : .phase p ∉ op.notices s h := by
  cases op
  case halt => cases hr
  case branch c target => simp only [Micro.notices]; split <;> simp
  all_goals simp [Micro.notices]

/-- The value a place holds after reset (10_state.md R42). -/
def Place.resetValue (c : Place) : Notice := c.read State.reset

theorem read_cleared (last : Word) (agenda : List (List HostEvent)) (c : Place) :
    c.read (State.cleared last agenda) = c.resetValue := by
  cases c <;> rfl

/-- Every place there is, in the order reset tells of them. -/
def Place.all : List Place :=
  (List.finRange 23).map .slot ++ [.busAddr, .busData, .busCtrl, .outBusy, .phase]

theorem Place.mem_all (c : Place) : c ∈ Place.all := by
  cases c <;> simp [Place.all]

/-- Reset tells of every place, and of its reset value (70_reset_and_hazards.md R280). -/
theorem reset_notices : HostEvent.reset.notices = Place.all.map Place.resetValue := by
  have hslots : (List.finRange 23).map (fun i => Notice.slot i 0#32) =
      (List.finRange 23).map (fun i => (Place.slot i).resetValue) :=
    List.map_congr_left fun i _ => congrArg (Notice.slot i) (cleared_slot Config.lastAddress [] i).symm
  rw [HostEvent.notices, hslots, Place.all, List.map_append, List.map_map]
  rfl

/-- Only reset and run write a place. -/
theorem apply_read {e : HostEvent} (he : e.needsStop = false) (s : State) (c : Place) : c.read (e.apply s) = c.read s := by
  obtain ⟨rfl, -⟩ | ⟨rfl, -⟩ | ⟨_, -, -, h⟩ | ⟨_, _, _, -, h⟩ := apply_cases e s
  · cases he
  · cases he
  all_goals rw [h]; exact read_control rfl c

/-- A control of the host's that is carried out: reset writes every place, run PHASE, and no other control any
(70_reset_and_hazards.md R280, R283). -/
theorem apply_tells (e : HostEvent) (s : State) : Tells e.notices s (e.apply s) := by
  by_cases hn : e.needsStop = false
  · rw [HostEvent.notices_eq_nil hn]
    exact .silent (apply_read hn s)
  · cases e
    case reset =>
      have htell := Tells.writes (s := s) (t := s.applyReset) Place.all fun c hc => absurd c.mem_all hc
      rw [reset_notices, ← funext (read_cleared s.mem.last s.agenda)]
      exact htell
    case run => exact .writes (t := s.applyRun) [.phase] (read_phase rfl)
    all_goals exact absurd rfl hn

/-- A control of the host's leaves a place at its reset value if it stands there. -/
theorem apply_resetValue {s : State} {c : Place} (h : c.read s = c.resetValue) (e : HostEvent) :
    c.read (e.apply s) = c.resetValue := by
  cases e
  case reset => exact read_cleared _ _ c
  case run =>
    by_cases hc : c = .phase
    · subst hc
      rfl
    · exact (read_phase (t := s.applyRun) rfl c (by simpa using hc)).trans h
  all_goals exact (apply_read rfl s c).trans h

theorem deliver_resetValue {es : List HostEvent} {s : State} {c : Place} (h : c.read s = c.resetValue) :
    c.read (deliver es s) = c.resetValue := by
  induction es generalizing s with
  | nil => exact h
  | cons e es ih =>
    rw [deliver]
    split
    · exact (read_control rfl c).trans h
    · exact ih (apply_resetValue h e)

/-- What the host's controls tell of a place is its reset value. -/
theorem notices_resetValue {e : HostEvent} {n : Notice} (hn : n ∈ e.notices) {c : Place} (hc : n.place = some c) :
    n = c.resetValue := by
  cases e
  case reset =>
    rw [reset_notices] at hn
    obtain ⟨c', -, rfl⟩ := List.mem_map.1 hn
    obtain rfl : c' = c := by simpa [Place.resetValue, Place.place_read] using hc
    rfl
  case run =>
    obtain rfl : n = .phase .fetch := List.mem_singleton.1 hn
    obtain rfl : Place.phase = c := Option.some.inj hc
    rfl
  all_goals cases hn

/-- The host's actions of one turn (70_reset_and_hazards.md R280, R283): whatever a reset or run told stays true to the end of
the turn. -/
theorem deliver_tells (es : List HostEvent) (s : State) : Tells (deliverNotices es s) s (deliver es s) := by
  induction es generalizing s with
  | nil => exact .silent fun _ => rfl
  | cons e es ih =>
    rw [deliverNotices, deliver]
    split
    · exact .silent (read_control rfl)
    · refine (apply_tells e s).append (ih _) fun n hn c hc => ?_
      have hreset := notices_resetValue hn hc
      rw [hreset]
      exact deliver_resetValue (((apply_tells e s).told n hn c hc).trans hreset)

theorem hostTurn_tells (s : State) : Tells s.hostNotices s (hostTurn s) := by
  cases ha : s.agenda with
  | nil =>
    simp only [State.hostNotices, hostTurn, ha]
    exact .silent fun _ => rfl
  | cons es later =>
    simp only [State.hostNotices, hostTurn, ha]
    exact (deliver_tells es { s with agenda := later }).congr (read_control rfl) fun _ => rfl

/-- What an active run finds after the host's turn is in every place what it was. -/
theorem Attended.read {s u : State} (host : Attended s u) (c : Place) : c.read u = c.read s := by
  cases host
  exact read_control rfl c

/-- A phase boundary writes no place (40_engine.md R142). -/
theorem boundary_read (s : State) (c : Place) : c.read s.boundary = c.read s := by
  obtain ⟨-, hb | ⟨-, -, hb⟩⟩ | ⟨-, -, hb⟩ | ⟨-, -, hb⟩ := boundary_cases s <;> rw [hb]
  · exact read_control rfl c
  · rw [useGrant_eq]
    exact read_control rfl c
  · exact read_control rfl c
  · rw [useGrant_eq]
    exact read_control rfl c

/-- Every micro-step of an active run. -/
theorem RunTick.tells {s t : State} {ns : List Notice} (h : RunTick s t ns) : Tells ns s t := by
  cases h
  case boundary u host _ => exact .silent fun c => (boundary_read u c).trans (host.read c)
  case finish => exact .writes (t := s.endPhase) [.phase] (read_phase rfl)
  case cut u host _ => exact .silent fun c => (read_control rfl c).trans (host.read c)
  case goesOn u s' _ _ _ _ _ host _ run =>
    exact (Micro.run_goes_tells run).congr host.read fun c => (read_control rfl c).symm
  case completes u s' _ _ _ host _ run =>
    have hend : Tells [.phase s'.phase.next] s' s'.endPhase := .writes (t := s'.endPhase) [.phase] (read_phase rfl)
    refine ((Micro.run_goes_tells run).append hend fun n hn c hc => ?_).congr host.read fun _ => rfl
    have hphase : c ∉ [.phase] := by
      intro hmem
      obtain rfl := List.mem_singleton.1 hmem
      cases n <;> cases hc
      exact Micro.phase_not_mem_notices run hn
    exact (read_phase (t := s'.endPhase) rfl c hphase).trans ((Micro.run_goes_tells run).told n hn c hc)
  case ends u s' _ _ _ host _ run =>
    exact (Micro.run_ends_tells run).congr host.read fun c => (read_control rfl c).symm

/-- Every micro-step of the machine, the host's turn included (60_exceptions.md R263). -/
theorem tick_tells (s : State) : Tells s.notices s (tick s) := by
  by_cases hs : s.status = .running
  · exact (tick_running hs).tells
  · rw [tick_idle hs, State.notices, if_neg hs]
    exact hostTurn_tells s

end Sys2Proof.Machine
end

section
/-! SUPPORT. The phase transitions an active run tells of (60_exceptions.md R263), and what a check that cuts it lets be told. -/

namespace Sys2Proof.Machine

variable {s t : State} {ns : List Notice}

/-- The micro-step that completes its phase notifies the phase that is due then. -/
theorem RunTick.phase_mem_of_complete (h : RunTick s t ns) (hi : s.inPhase ≠ none) (ht : t.status = .running)
    (hend : t.inPhase = none) : .phase t.phase ∈ ns := by
  cases h
  case boundary place => exact absurd place hi
  case finish => exact List.mem_singleton_self _
  case cut => cases ht
  case goesOn => cases hend
  case completes => exact List.mem_append_right _ (List.mem_singleton_self _)
  case ends run => exact (Micro.run_ends_status run ht).elim

/-- A micro-step after which the phase goes on notifies no phase. -/
theorem RunTick.phase_not_mem_of_goesOn (h : RunTick s t ns) (ht : t.status = .running) (hi : t.inPhase ≠ none) (p : Phase) :
    .phase p ∉ ns := by
  cases h
  case boundary => exact List.not_mem_nil
  case finish | completes => exact absurd rfl hi
  case cut => exact List.not_mem_nil
  case goesOn run => exact Micro.phase_not_mem_notices run
  case ends => exact absurd rfl hi

/-- A micro-step that ends the run otherwise than at a check leaves it Halted or Faulted. -/
theorem Micro.run_ends_not_cancelled {ph : Phase} {s s' : State} {h : Held} {op : Micro} (hr : op.run ph s h = .ends s') :
    s'.status ≠ .cancelled := by
  obtain ⟨-, rfl⟩ | ⟨_, -, -, rfl⟩ | ⟨-, rfl⟩ := Micro.run_ends hr <;> exact nofun

/-- A check that finds the token set lets nothing be notified (40_engine.md R143, R154). -/
theorem RunTick.nil_of_cancelled (h : RunTick s t ns) (hs : s.status = .running) (ht : t.status = .cancelled) : ns = [] := by
  cases h
  case boundary | cut => rfl
  case finish => exact nomatch hs.symm.trans ht
  case goesOn host _ run | completes host _ run =>
    cases host
    exact nomatch hs.symm.trans ((Micro.run_goes run).status.symm.trans ht)
  case ends run => exact (Micro.run_ends_not_cancelled run ht).elim

end Sys2Proof.Machine
end

section
/-! The statements on faults, the host's controls and observers (60_exceptions.md). -/

namespace Sys2Proof.Machine

/-- Settles O11: the reset's cancellation cuts the run at its check; the reset, still at the head of the agenda, then finds no run
active. -/
theorem resetStopsThenClears : Obligations.ResetStopsThenClears := by
  unfold Obligations.ResetStopsThenClears
  intro s later hcp ha
  have hturn := hostTurn_needsStop (atCheckPoint_cases hcp).1 rfl ha
  obtain ⟨g, hstep⟩ := step_cut hcp (by rw [hturn]; rfl)
  rw [hturn] at hstep
  refine ⟨_, hstep, rfl, rfl, rfl, rfl, fun hlater => ?_⟩
  subst hlater
  exact step_control (e := .reset) nofun ha

/-- Settles O16: the run command's cancellation cuts the old run where it stands; the command, still at the head of the agenda,
then starts the new one. -/
theorem runReplacesRun : Obligations.RunReplacesRun := by
  unfold Obligations.RunReplacesRun
  intro s hcp hp ha
  have hturn := hostTurn_needsStop (atCheckPoint_cases hcp).1 rfl ha
  have hstep := step_cancelSeen hcp (by rw [hturn]; rfl) (by rw [hturn]; exact hp)
  rw [hturn] at hstep
  exact ⟨_, hstep, rfl, step_control (e := .run) nofun ha⟩

/-- Settles O19: the token is written by cancel and by a new run; every micro-step of an active run keeps it, and with none active
and no action of the host's nothing moves. -/
theorem cancelTokenRules : Obligations.CancelTokenRules := by
  unfold Obligations.CancelTokenRules
  refine ⟨fun s hs => if_pos hs, fun s hs => if_neg hs, fun s e he hc => apply_cancel he hc, fun s hc => ?_,
    cancelledRunMutatesNothing.1, fun s => rfl⟩
  by_cases hs : s.status = .running
  · exact tick_cancel hs hc
  · rw [tick_idle (s := { s with agenda := [] }) hs, hostTurn_empty rfl]
    exact hc

/-- Settles O22: a grant starts the phase that is due, a paused run is held at the next boundary, and what a phase does depends
neither on PAUSED nor on the grants. -/
theorem threeGrantsAreOneInstruction : Obligations.ThreeGrantsAreOneInstruction := by
  unfold Obligations.ThreeGrantsAreOneInstruction
  refine ⟨fun s hp => if_pos hp, fun s hp => by simp [HostEvent.apply, State.applyStep, hp], fun s hq hin => ?_⟩
  intro granted held w fetched
  obtain ⟨hp, h⟩ := (quiet_iff s).1 hq
  have hfetched : Undisturbed (s.fetched w) := ⟨h.status, h.inPhase, h.polling, h.paused, h.cancelSeen, h.agenda⟩
  have hready : Undisturbed (s.readyToExecute w) := ⟨h.status, h.inPhase, h.polling, h.paused, h.cancelSeen, h.agenda⟩
  have hfetch : s.onePhase = s.fetched w := h.onePhase_fetch hp hin
  refine ⟨h.step_onePhase h.tick_granted hfetch, hfetched.step_onePhase hfetched.tick_granted (hfetched.onePhase_decode rfl),
    fun u hu => ?_, fun inPoll => h.step_onePhase (h.tick_stepEvent inPoll) hfetch⟩
  obtain ⟨t, ht, hstep⟩ := stepInstruction_inside hin
  obtain rfl : t.afterExecute = u := by simpa [step_quiet hq, hstep] using hu
  exact hready.step_onePhase hready.tick_granted (hready.onePhase_execute rfl ht)

/-- Settles O31: a legal position lies within one phase, each micro-step leaves less to do, and the fuel is more than that. -/
theorem legalStateAlwaysSteps : Obligations.LegalStateAlwaysSteps := by
  unfold Obligations.LegalStateAlwaysSteps
  intro s hs
  obtain ⟨t, ht⟩ := drive_total (work_lt_microFuel ((legal_iff s).1 hs).1.position)
  exact ⟨t, by rw [step_eq_stepMicro, stepMicro, ht]⟩

/-- Settles O57: what is told of a micro-step and of a `tick` is told place by place, PHASE among the places; the transitions of
an active run are those of `RunTick`. -/
theorem noticesTellEveryWrite : Obligations.NoticesTellEveryWrite := by
  unfold Obligations.NoticesTellEveryWrite
  exact ⟨fun ph s s' h h' op hr => (Micro.run_goes_tells hr).noticesTell,
    fun s => (tick_tells s).noticesTell,
    fun s p hp => (tick_tells s).phase_told hp,
    fun s hne => (tick_tells s).phase_mem hne,
    fun s hs => (tick_running hs).phase_mem_of_complete,
    fun s hs => (tick_running hs).phase_not_mem_of_goesOn,
    fun s hs => (tick_running hs).nil_of_cancelled hs⟩

/-- Settles O20: the first check finds no cancellation and the pause holds; of a step and a cancel the step is delivered first,
and its grant is consumed by the run that leaves the poll alone. -/
theorem pauseHoldsAtBoundary : Obligations.PauseHoldsAtBoundary := by
  unfold Obligations.PauseHoldsAtBoundary
  refine ⟨fun s => rfl, fun s hs hi hp hg hc ha => ?_, fun s hs hi hp hg ha => ?_⟩
  · have hwait : s.mustWait = true := mustWait_iff.2 ⟨hp, hg⟩
    have htick : tick s = { s with polling := true } := by
      rw [tick_boundary hs hi, hostTurn_empty ha, boundary_waits hwait (cancelSeen_false_iff.2 hc)]
    have hrest : (tick s).atRest = true := by
      rw [htick]
      exact atRest_of_mustWait hi hwait
    rw [step_eq_tick hrest, htick]
  · have hturn : hostTurn s = { s with grants := 1, cancel := some true, agenda := [] } := by
      simp [hostTurn, ha, deliver, HostEvent.needsStop, HostEvent.apply, State.applyStep, State.applyCancel, hs, hp, hg]
    have htick : tick s = { s with
        status := .cancelled, cancel := some true, polling := false, agenda := [],
        grants := if s.polling then 0 else 1 } := by
      rw [tick_boundary hs hi, hturn, boundary_cut (by simp [State.mustWait]) rfl]
      cases s.polling <;> simp [useGrant_eq, State.stopCancelled, hp, hi]
    have hrest : (tick s).atRest = true := by
      rw [htick]
      rfl
    rw [step_eq_tick hrest, htick]

/-- Settles O21: the poll that finds PAUSED cleared starts the phase that is due. -/
theorem resumeStartsDuePhase : Obligations.ResumeStartsDuePhase := by
  unfold Obligations.ResumeStartsDuePhase
  refine ⟨fun s => rfl, fun s hs hi hp hg hc ha => ?_⟩
  have hturn : hostTurn s = { s with paused := false, agenda := [] } := by
    simp [hostTurn, ha, deliver, HostEvent.needsStop, HostEvent.apply, State.applyResume]
  rw [tick_boundary hs hi, hturn]
  exact boundary_starts (s := { s with paused := false, agenda := [] }) rfl (cancelSeen_false_iff.2 hc)

/-- Settles O47: the two accesses outside Memory, with the address written as a number. -/
theorem dataAccessOutOfRange : Obligations.DataAccessOutOfRange := by
  unfold Obligations.DataAccessOutOfRange
  intro s rd ea hout
  rw [BitVec.ofNat_toNat]
  exact ⟨exec_ldr_outside rd hout, exec_str_outside rd hout⟩

/-- Settles O58: the first micro-step of FETCH is the notification, performed between two check points. -/
theorem fetchNotificationTellsPc : Obligations.FetchNotificationTellsPc := by
  unfold Obligations.FetchNotificationTellsPc
  intro s hq
  obtain ⟨hp, h⟩ := (quiet_iff s).1 hq
  have hops : s.phaseOps = fetchOps := by simp [State.phaseOps, hp]
  rw [h.tick, hops]
  exact ⟨if_pos h.status, ⟨fetchOps.tail, {}⟩, if_pos h.status, rfl⟩

end Sys2Proof.Machine
end

section
/-! SUPPORT. What load leaves in each cell (70_reset_and_hazards.md R282), and the launch as the host's turn (R284). -/

namespace Sys2Proof.Machine

/-- Load leaves the cells below its first address and above its last (70_reset_and_hazards.md R282). -/
theorem Memory.loadFrom_get_outside {m : Memory} {a k : Nat} {ws : List Word} (hw : m.wf = true)
    (hfit : a + ws.length ≤ m.size) (hk : k < a ∨ a + ws.length ≤ k) : (m.loadFrom a ws).get k = m.get k := by
  induction ws generalizing m a with
  | nil => rfl
  | cons w ws ih =>
    rw [List.length_cons] at hfit hk
    have hrest : a + 1 + ws.length ≤ (m.put a w).size := by rw [Memory.put_size]; omega
    calc ((m.put a w).loadFrom (a + 1) ws).get k
        = (m.put a w).get k := ih (Memory.put_wf hw (by omega)) hrest (by omega)
      _ = m.get k := Memory.get_put_other hw w (by omega)

/-- Load from address `a` leaves word `k` at `a + k` (R282): later words go to later cells. -/
theorem Memory.loadFrom_get_inside {m : Memory} {a k : Nat} {ws : List Word} (hw : m.wf = true)
    (hfit : a + ws.length ≤ m.size) (hk : k < ws.length) : (m.loadFrom a ws).get (a + k) = ws.getD k 0#32 := by
  induction ws generalizing m a k with
  | nil => cases hk
  | cons w ws ih =>
    rw [List.length_cons] at hfit hk
    have hput : (m.put a w).wf = true := Memory.put_wf hw (by omega)
    have hrest : a + 1 + ws.length ≤ (m.put a w).size := by rw [Memory.put_size]; omega
    cases k with
    | zero => exact (Memory.loadFrom_get_outside hput hrest (by omega)).trans (Memory.get_put_same hw a w)
    | succ k =>
      rw [show a + (k + 1) = a + 1 + k by omega]
      exact ih hput hrest (by omega)

/-- Load from address 0 leaves word `k` in cell `k`. -/
theorem Memory.load_get_inside {m : Memory} {k : Nat} {ws : List Word} (hw : m.wf = true) (hfit : ws.length ≤ m.size)
    (hk : k < ws.length) : (m.loadFrom 0 ws).get k = ws.getD k 0#32 := by
  have h := Memory.loadFrom_get_inside hw (a := 0) (by omega) hk
  rwa [Nat.zero_add] at h

/-- Load from address 0 leaves every cell above the program. -/
theorem Memory.load_get_above {m : Memory} {k : Nat} {ws : List Word} (hw : m.wf = true) (hfit : ws.length ≤ m.size)
    (hk : ws.length ≤ k) : (m.loadFrom 0 ws).get k = m.get k :=
  Memory.loadFrom_get_outside hw (by omega) (by omega)

section
variable {s : State} {words : List Word}

/-- The host's load of a program that fits, with no run active. -/
theorem apply_load (hs : s.status ≠ .running) (hfit : words.length ≤ s.mem.size) :
    (HostEvent.load words).apply s = { s with mem := s.mem.loadFrom 0 words } := by
  simp [HostEvent.apply, State.applyLoad, hs, hfit]

/-- A program longer than Memory is refused whole (D19), whatever the run status. -/
theorem apply_load_tooLong (hlong : s.mem.size < words.length) : (HostEvent.load words).apply s = s := by
  simp [HostEvent.apply, State.applyLoad, Nat.not_le.2 hlong]

/-- While a run is active the host has no such move (10_state.md R39). -/
theorem apply_load_running (hs : s.status = .running) : (HostEvent.load words).apply s = s := if_pos hs

end

/-- The state a launch comes to: the reset state with the program loaded and a run at its first boundary
(70_reset_and_hazards.md R284). -/
def State.launched (words : List Word) : State :=
  { State.reset with
    mem := State.reset.mem.loadFrom 0 words, cancel := some false, status := .running }

/-- With no run active the first of the host's actions is carried out at once. -/
theorem deliver_idle {s : State} (hs : s.status ≠ .running) (e : HostEvent) (es : List HostEvent) :
    deliver (e :: es) s = deliver es (e.apply s) := by
  simp [deliver, hs]

/-- The launch is one turn of the host's: load, then run. -/
theorem step_launch {words : List Word} (hfit : words.length ≤ Config.memSize) :
    step (State.launch words) = .next (State.launched words) := by
  have hidle : State.reset.status ≠ .running := nofun
  have hturn : hostTurn (State.launch words) = State.launched words :=
    calc hostTurn (State.launch words)
        = deliver [.load words, .run] State.reset := rfl
      _ = deliver [.run] { State.reset with mem := State.reset.mem.loadFrom 0 words } := by
          rw [deliver_idle hidle, apply_load hidle hfit]
      _ = State.launched words := rfl
  rw [step_idle (s := State.launch words) hidle, hturn]

end Sys2Proof.Machine
end

section
/-! SUPPORT. The highest address of Memory, fixed at creation (70_reset_and_hazards.md R281): the host's controls, the phase
boundary and every micro-step keep it. -/

namespace Sys2Proof.Machine

/-- Memories with one highest address have one size (10_state.md R33). -/
theorem Memory.size_congr {m m' : Memory} (h : m'.last = m.last) : m'.size = m.size := by
  rw [Memory.size, h, Memory.size]

/-- No control of the host's changes the highest address; reset clears a Memory of the same size. -/
theorem apply_mem_last (e : HostEvent) (s : State) : (e.apply s).mem.last = s.mem.last := by
  obtain ⟨-, h⟩ | ⟨-, h⟩ | ⟨words, -, -, h⟩ | ⟨_, _, _, -, h⟩ := apply_cases e s <;> rw [h]
  · rfl
  · rfl
  · exact Memory.loadFrom_last words s.mem 0

/-- The host's actions of one turn keep the highest address. -/
theorem deliver_mem_last (es : List HostEvent) (s : State) : (deliver es s).mem.last = s.mem.last := by
  induction es generalizing s with
  | nil => rfl
  | cons e es ih =>
    rw [deliver]
    split
    · rfl
    · exact (ih (e.apply s)).trans (apply_mem_last e s)

theorem hostTurn_mem_last (s : State) : (hostTurn s).mem.last = s.mem.last := by
  unfold hostTurn
  split
  · rfl
  · exact deliver_mem_last _ _

/-- What an active run finds after the host's turn is the Memory it had. -/
theorem Attended.mem {s u : State} (host : Attended s u) : u.mem = s.mem := by
  cases host
  rfl

/-- A phase boundary leaves Memory alone (40_engine.md R142). -/
theorem boundary_mem (s : State) : s.boundary.mem = s.mem := by
  obtain ⟨-, hb | ⟨-, -, hb⟩⟩ | ⟨-, -, hb⟩ | ⟨-, -, hb⟩ := boundary_cases s <;> rw [hb] <;> simp [useGrant_eq]

/-- A micro-step that ends the run leaves Memory alone. -/
theorem Micro.run_ends_mem {ph : Phase} {s s' : State} {h : Held} {op : Micro} (hr : op.run ph s h = .ends s') :
    s'.mem = s.mem := by
  obtain ⟨-, rfl⟩ | ⟨_, -, -, rfl⟩ | ⟨-, rfl⟩ := Micro.run_ends hr <;> rfl

/-- Every micro-step of an active run keeps the highest address. -/
theorem RunTick.mem_last {s t : State} {ns : List Notice} (h : RunTick s t ns) : t.mem.last = s.mem.last := by
  cases h
  case boundary u host _ => rw [boundary_mem, host.mem]
  case finish => rfl
  case cut host _ => exact congrArg Memory.last host.mem
  case goesOn host _ run | completes host _ run => exact (Micro.run_goes run).last.trans (congrArg Memory.last host.mem)
  case ends host _ run => exact congrArg Memory.last ((Micro.run_ends_mem run).trans host.mem)

/-- Every micro-step of the machine, the host's turn included. -/
theorem tick_mem_last (s : State) : (tick s).mem.last = s.mem.last := by
  by_cases hs : s.status = .running
  · exact (tick_running hs).mem_last
  · rw [tick_idle hs]
    exact hostTurn_mem_last s

end Sys2Proof.Machine
end

section
/-! SUPPORT. The instructions that R292 speaks of (70_reset_and_hazards.md): the two forms of CMP, and the conditional branches. -/

namespace Sys2Proof.Machine

/-- CMP has two forms and no other instruction is of its family. -/
theorem family_compare_cases {i : Instr} (h : i.family = .compare) :
    (∃ rd rm, i = .cmpReg rd rm) ∨ ∃ rd imm, i = .cmpImm rd imm := by
  cases i
  case cmpReg rd rm => exact .inl ⟨rd, rm, rfl⟩
  case cmpImm rd imm => exact .inr ⟨rd, imm, rfl⟩
  all_goals cases h

/-- A conditional branch is the branch of a condition other than B's. -/
theorem conditional_branch_ops {i : Instr} {label : BitVec 16} (h : i ∈ [Instr.beq label, .bgt label, .blt label, .bne label]) :
    ∃ c : Condition, c ≠ .always ∧ executeOps i = branchOps c label := by
  simp only [List.mem_cons, List.not_mem_nil, or_false] at h
  obtain rfl | rfl | rfl | rfl := h
  · exact ⟨.eq, nofun, rfl⟩
  · exact ⟨.gt, nofun, rfl⟩
  · exact ⟨.lt, nofun, rfl⟩
  · exact ⟨.ne, nofun, rfl⟩

end Sys2Proof.Machine
end

section
/-! The statements on reset, load, run and what the machine does before its first CMP (70_reset_and_hazards.md). -/

namespace Sys2Proof.Machine

/-- Settles O13: each word is stored once, and no later store of the load goes to its cell. -/
theorem loadWritesProgram : Obligations.LoadWritesProgram := by
  unfold Obligations.LoadWritesProgram
  refine fun s words hw => ⟨fun hs hfit => ?_, apply_load_tooLong, apply_load_running⟩
  rw [apply_load hs hfit]
  exact ⟨fun k => Memory.load_get_inside hw hfit, fun k => Memory.load_get_above hw hfit, rfl⟩

/-- Settles O14: load and run change the reset state in Memory and in the control state alone. -/
theorem launchState : Obligations.LaunchState := by
  unfold Obligations.LaunchState
  intro words hfit
  exact ⟨State.launched words, step_launch hfit, rfl, cleared_slot Config.lastAddress [], rfl, rfl, rfl, rfl,
    fun k => Memory.load_get_inside State.reset_mem_wf hfit, fun k => Memory.load_get_above State.reset_mem_wf hfit⟩

/-- Settles O32: every micro-step keeps the highest address, and a step is a drive of micro-steps. -/
theorem memorySizeIsFixed : Obligations.MemorySizeIsFixed := by
  unfold Obligations.MemorySizeIsFixed
  intro s t ht
  have hlast : t.mem.last = s.mem.last :=
    step_keeps (P := fun u => u.mem.last = s.mem.last) (fun u hu => (tick_mem_last u).trans hu) rfl ht
  exact Memory.size_congr hlast

/-- Settles O12: the host's one control is carried out at once. -/
theorem resetClearsIdleMachine : Obligations.ResetClearsIdleMachine := by
  unfold Obligations.ResetClearsIdleMachine
  intro s hs ha
  exact step_control (e := .reset) hs ha

/-- Settles O15: the host's one control is carried out at once, whatever ended the last run. -/
theorem runContinuesFromState : Obligations.RunContinuesFromState := by
  unfold Obligations.RunContinuesFromState
  intro s hs ha
  exact step_control (e := .run) hs ha

/-- Settles O17: with no run active a step is the host's turn, here an empty one. -/
theorem stoppedMachineStays : Obligations.StoppedMachineStays := by
  unfold Obligations.StoppedMachineStays
  intro s hs ha
  rw [step_idle hs, hostTurn_empty ha]

/-- Settles O35: while FLAGS is 0 no predicate but that of B holds, and FLAGS is written by CMP alone. -/
theorem branchBeforeCompareFallsThrough : Obligations.BranchBeforeCompareFallsThrough := by
  unfold Obligations.BranchBeforeCompareFallsThrough
  refine ⟨rfl, fun s label i hf hi => ?_, fun i s t hreg himm h => exec_flags h fun hfam => ?_⟩
  · obtain ⟨c, hc, hops⟩ := conditional_branch_ops hi
    exact ⟨s, exec_branch_flags_zero hc hops hf, rfl⟩
  · obtain ⟨rd, rm, hcmp⟩ | ⟨rd, imm, hcmp⟩ := family_compare_cases hfam
    · exact hreg rd rm hcmp
    · exact himm rd imm hcmp

end Sys2Proof.Machine
end

section
/-! The two passes of the assembler put together, and the examples of the source (95_test_vectors.md S5 to S7, V13). -/

namespace Sys2Proof.Asm

/-- The output of a text is that of its items, when its lines pass both passes (R110, R124). -/
theorem assemble_of_passes {text : List Char} {lines : List SourceLine} {labels : Labels} {items : List (Item × Nat)}
    (hlines : sourceLines text = lines) (hlabels : bindLabels lines 0 [] = .ok labels)
    (hitems : parseLines labels lines = .ok items) :
    assemble text =
      .ok ⟨items.map (fun p => p.1.word), (List.range items.length).zip (items.map (fun p => p.2))⟩ := by
  simp [assemble, assembleItems, hlines, hlabels, hitems]

/-- The error of pass 2 is the error of the text (R110). -/
theorem assemble_of_parse_error {text : List Char} {lines : List SourceLine} {labels : Labels} {e : CompileError}
    (hlines : sourceLines text = lines) (hlabels : bindLabels lines 0 [] = .ok labels)
    (herror : parseLines labels lines = .error e) : assemble text = .error e := by
  simp [assemble, assembleItems, hlines, hlabels, herror]

/-- Settles O60: each text's normalised lines, the labels pass 1 binds and the items pass 2 emits, whose words and lines are the
output; S7 stops in pass 2 at its first line, whose register index is above ASM_MAX_REG (D5). -/
theorem assemblerExamples : Obligations.AssemblerExamples := by
  unfold Obligations.AssemblerExamples
  refine ⟨?addThenHalt, ?forwardBranch, ?registerAboveLimit, ?countUp⟩
  case addThenHalt =>
    exact assemble_of_passes
      (lines := [⟨1, "add r0, r1, r2".toList⟩, ⟨2, "halt".toList⟩])
      (labels := [])
      (items := [(.code (.addReg 0 1 2), 1), (.code .halt, 2)])
      (by decide) (by decide) (by decide)
  case forwardBranch =>
    exact assemble_of_passes
      (lines := [⟨1, "b loop".toList⟩, ⟨2, "loop:".toList⟩, ⟨3, "halt".toList⟩])
      (labels := [("loop".toList, 1)])
      (items := [(.code (.b 1), 1), (.code .halt, 3)])
      (by decide) (by decide) (by decide)
  case registerAboveLimit =>
    exact assemble_of_parse_error
      (lines := [⟨1, "add r20, r1, r2".toList⟩, ⟨2, "halt".toList⟩])
      (labels := [])
      (by decide) (by decide) (by decide)
  case countUp =>
    exact assemble_of_passes
      (lines := [⟨2, "mov r0, #0".toList⟩, ⟨4, "loop:".toList⟩, ⟨5, "add r0, r0, #1".toList⟩, ⟨6, "b loop".toList⟩,
        ⟨7, "end:".toList⟩, ⟨8, "halt".toList⟩, ⟨9, "#42".toList⟩])
      (labels := [("loop".toList, 1), ("end".toList, 3)])
      (items := [(.code (.movImm 0 0), 2), (.code (.addImm 0 0 1), 5), (.code (.b 1), 6), (.code .halt, 8), (.data 42, 9)])
      (by decide) (by decide) (by decide)

end Sys2Proof.Asm
end
